-- ==== Sys2Proof/Word.lean ====
section
/-! DEFINITION. The word types of the CHIP-8 core: what the spec treats as bits, and its register and key numbers. -/

namespace Sys2Proof

/-- A V register, a timer or a memory byte: 8 bits (10_state.md R21, R31, R32, R36). -/
abbrev Byte := BitVec 8

/-- `I`, `pc`, a stack entry or an opcode word: 16 bits (10_state.md R24, R25, R29; 30_encoding.md R90). -/
abbrev Word := BitVec 16

/-- The 12-bit address field `nnn` (30_encoding.md R91). -/
abbrev Addr12 := BitVec 12

/-- A register number, from a 4-bit opcode field (10_state.md R21). -/
abbrev Reg := Fin 16

/-- A key number, 0 to 15 (10_state.md R33, R45). -/
abbrev Key := Fin 16

/-- Register 15, which is also the flag (10_state.md R22). -/
@[simp] def VF : Reg := 15

end Sys2Proof
end

