-- ==== Sys2Proof/Syntax.lean ====
section
/-! DEFINITION. The instructions: one constructor per row of the opcode table (30_encoding.md R96). The catch-all
`Unknown` has no pattern and no row; it is a constructor of `Variant` in Decode.lean. -/

namespace Sys2Proof

/-- The 33 instructions, with the operands of their formats (30_encoding.md R92, R95). -/
inductive Instr where
  /-- 00E0 -/
  | clearDisplay
  /-- 00EE -/
  | ret
  /-- 1nnn -/
  | jump (nnn : Addr12)
  /-- 2nnn -/
  | call (nnn : Addr12)
  /-- 3xkk -/
  | skipEqConst (x : Reg) (kk : Byte)
  /-- 4xkk -/
  | skipNeConst (x : Reg) (kk : Byte)
  /-- 5xy0 -/
  | skipEqReg (x y : Reg)
  /-- 6xkk -/
  | setConst (x : Reg) (kk : Byte)
  /-- 7xkk -/
  | addConst (x : Reg) (kk : Byte)
  /-- 8xy0 -/
  | set (x y : Reg)
  /-- 8xy1 -/
  | or (x y : Reg)
  /-- 8xy2 -/
  | and (x y : Reg)
  /-- 8xy3 -/
  | xor (x y : Reg)
  /-- 8xy4 -/
  | add (x y : Reg)
  /-- 8xy5 -/
  | sub (x y : Reg)
  /-- 8xy6; `y` is kept for `SHIFT_SOURCE = VY` (R95, R101) -/
  | shiftRight (x y : Reg)
  /-- 8xy7 -/
  | subN (x y : Reg)
  /-- 8xyE; `y` as in 8xy6 -/
  | shiftLeft (x y : Reg)
  /-- 9xy0 -/
  | skipNeReg (x y : Reg)
  /-- Annn -/
  | setI (nnn : Addr12)
  /-- Cxkk -/
  | rand (x : Reg) (kk : Byte)
  /-- Dxyn, `n` a count of rows 0 to 15 -/
  | draw (x y : Reg) (n : Fin 16)
  /-- Ex9E -/
  | skipKeyPressed (x : Reg)
  /-- ExA1 -/
  | skipKeyNotPressed (x : Reg)
  /-- Fx07 -/
  | getDelay (x : Reg)
  /-- Fx0A -/
  | haltUntilPressed (x : Reg)
  /-- Fx15 -/
  | setDelay (x : Reg)
  /-- Fx18 -/
  | setSound (x : Reg)
  /-- Fx1E -/
  | addI (x : Reg)
  /-- Fx29 -/
  | loadFont (x : Reg)
  /-- Fx33 -/
  | storeBcd (x : Reg)
  /-- Fx55, `x` itself the last register stored -/
  | storeV (x : Reg)
  /-- Fx65, `x` itself the last register loaded -/
  | loadV (x : Reg)
  deriving DecidableEq, Repr

/-- The mnemonic of an instruction (30_encoding.md R104), as the opcode table spells it. -/
def Instr.mnemonic : Instr → String
  | .clearDisplay => "ClearDisplay"
  | .ret => "Return"
  | .jump _ => "Jump"
  | .call _ => "Call"
  | .skipEqConst _ _ => "SkipEqConst"
  | .skipNeConst _ _ => "SkipNeConst"
  | .skipEqReg _ _ => "SkipEqReg"
  | .setConst _ _ => "SetConst"
  | .addConst _ _ => "AddConst"
  | .set _ _ => "Set"
  | .or _ _ => "Or"
  | .and _ _ => "And"
  | .xor _ _ => "Xor"
  | .add _ _ => "Add"
  | .sub _ _ => "Sub"
  | .shiftRight _ _ => "ShiftRight"
  | .subN _ _ => "SubN"
  | .shiftLeft _ _ => "ShiftLeft"
  | .skipNeReg _ _ => "SkipNeReg"
  | .setI _ => "SetI"
  | .rand _ _ => "Rand"
  | .draw _ _ _ => "Draw"
  | .skipKeyPressed _ => "SkipKeyPressed"
  | .skipKeyNotPressed _ => "SkipKeyNotPressed"
  | .getDelay _ => "GetDelay"
  | .haltUntilPressed _ => "HaltUntilPressed"
  | .setDelay _ => "SetDelay"
  | .setSound _ => "SetSound"
  | .addI _ => "AddI"
  | .loadFont _ => "LoadFont"
  | .storeBcd _ => "StoreBcd"
  | .storeV _ => "StoreV"
  | .loadV _ => "LoadV"

end Sys2Proof
end

