-- ==== Sys2Proof/Decode.lean ====
section
/-! DEFINITION. The decoder (30_encoding.md R94, R95), the opcode table as data (R96), and the encoder written from the
formats (R92). Byte order: the byte at the lower address is the high byte of the word (20_memory.md R67). -/

namespace Sys2Proof

/-- What decoding a word gives: one of the 33 instructions, or the catch-all carrying the raw word (R94). -/
inductive Variant where
  | known (i : Instr)
  | unknown (w : Word)
  deriving DecidableEq, Repr

/-- Why a byte sequence decodes to no instruction. -/
inductive DecodeError where
  /-- fewer than the 2 bytes of an instruction (R90) -/
  | truncated
  /-- a word outside the 33 patterns (R98) -/
  | unknownWord (w : Word)
  deriving DecidableEq, Repr

/-! The fields of a word (R91). -/

def fieldOp (w : Word) : BitVec 4 := w.extractLsb' 12 4
def fieldX (w : Word) : Reg := (w.extractLsb' 8 4).toFin
def fieldY (w : Word) : Reg := (w.extractLsb' 4 4).toFin
def fieldN (w : Word) : Fin 16 := (w.extractLsb' 0 4).toFin
def fieldKk (w : Word) : Byte := w.extractLsb' 0 8
def fieldNnn (w : Word) : Addr12 := w.extractLsb' 0 12

/-- `op = 0`: only the two exact words (R95, R100). -/
def decodeFamily0 (w : Word) : Variant :=
  if w = 0x00E0 then .known .clearDisplay else if w = 0x00EE then .known .ret else .unknown w

/-- `op = 8`: nine instructions selected by `n` (R95). -/
def decodeFamily8 (w : Word) : Variant :=
  let x := fieldX w
  let y := fieldY w
  match (fieldN w).val with
  | 0x0 => .known (.set x y)
  | 0x1 => .known (.or x y)
  | 0x2 => .known (.and x y)
  | 0x3 => .known (.xor x y)
  | 0x4 => .known (.add x y)
  | 0x5 => .known (.sub x y)
  | 0x6 => .known (.shiftRight x y)
  | 0x7 => .known (.subN x y)
  | 0xE => .known (.shiftLeft x y)
  | _ => .unknown w

/-- `op = E`: two instructions selected by `kk` (R95). -/
def decodeFamilyE (w : Word) : Variant :=
  match (fieldKk w).toNat with
  | 0x9E => .known (.skipKeyPressed (fieldX w))
  | 0xA1 => .known (.skipKeyNotPressed (fieldX w))
  | _ => .unknown w

/-- `op = F`: nine instructions selected by `kk` (R95). -/
def decodeFamilyF (w : Word) : Variant :=
  let x := fieldX w
  match (fieldKk w).toNat with
  | 0x07 => .known (.getDelay x)
  | 0x0A => .known (.haltUntilPressed x)
  | 0x15 => .known (.setDelay x)
  | 0x18 => .known (.setSound x)
  | 0x1E => .known (.addI x)
  | 0x29 => .known (.loadFont x)
  | 0x33 => .known (.storeBcd x)
  | 0x55 => .known (.storeV x)
  | 0x65 => .known (.loadV x)
  | _ => .unknown w

/-- The decoder: total, from the word alone (R94), by the procedure of R95. -/
def decode (w : Word) : Variant :=
  let x := fieldX w
  let y := fieldY w
  match (fieldOp w).toNat with
  | 0x0 => decodeFamily0 w
  | 0x1 => .known (.jump (fieldNnn w))
  | 0x2 => .known (.call (fieldNnn w))
  | 0x3 => .known (.skipEqConst x (fieldKk w))
  | 0x4 => .known (.skipNeConst x (fieldKk w))
  | 0x5 => if fieldN w = 0 then .known (.skipEqReg x y) else .unknown w
  | 0x6 => .known (.setConst x (fieldKk w))
  | 0x7 => .known (.addConst x (fieldKk w))
  | 0x8 => decodeFamily8 w
  | 0x9 => if fieldN w = 0 then .known (.skipNeReg x y) else .unknown w
  | 0xA => .known (.setI (fieldNnn w))
  | 0xC => .known (.rand x (fieldKk w))
  | 0xD => .known (.draw x y (fieldN w))
  | 0xE => decodeFamilyE w
  | 0xF => decodeFamilyF w
  | _ => .unknown w   -- 0xB (R99); `op` has no other value

/-- The word stored in two bytes, high byte first (20_memory.md R67). -/
def wordOfBytes (hi lo : Byte) : Word := hi ++ lo

/-- The two bytes of a word, in the order they are stored (20_memory.md R67). -/
def bytesOfWord (w : Word) : List Byte := [w.extractLsb' 8 8, w.extractLsb' 0 8]

/-- Decoding the front of a byte sequence: the instruction and the bytes after it, or the reason there is none. -/
def decodeBytes : List Byte → Except DecodeError (Instr × List Byte)
  | hi :: lo :: rest =>
    match decode (wordOfBytes hi lo) with
    | .known i => .ok (i, rest)
    | .unknown w => .error (.unknownWord w)
  | [_] => .error .truncated
  | [] => .error .truncated

/-- The instruction the decoder reads from a word given as a number, numbered as spec/opcode_table.json numbers bits. -/
def decodeTableWord (nbits w : Nat) : Option Instr :=
  match decodeBytes (bytesOfWord (BitVec.ofNat 16 (w % 2 ^ nbits))) with
  | .ok (i, _) => some i
  | .error _ => none

/-! The encoder. -/

/-- A register number or row count as a 4-bit field. -/
def nibble (x : Fin 16) : BitVec 4 := BitVec.ofFin (w := 4) x

/-- Format `A`: `oooo nnnn nnnn nnnn` (R92). -/
def formatA (op : BitVec 4) (nnn : Addr12) : Word := op ++ nnn

/-- Format `XK`: `oooo xxxx kkkk kkkk` (R92). -/
def formatXK (op : BitVec 4) (x : Reg) (kk : Byte) : Word := op ++ (nibble x ++ kk)

/-- Format `XY`: `oooo xxxx yyyy ssss` (R92). -/
def formatXY (op : BitVec 4) (x y : Reg) (sel : BitVec 4) : Word := op ++ (nibble x ++ (nibble y ++ sel))

/-- Format `XYN`: `oooo xxxx yyyy nnnn` (R92). -/
def formatXYN (op : BitVec 4) (x y : Reg) (n : Fin 16) : Word := op ++ (nibble x ++ (nibble y ++ nibble n))

/-- Format `XS`: `oooo xxxx ssss ssss` (R92). -/
def formatXS (op : BitVec 4) (x : Reg) (sel : BitVec 8) : Word := op ++ (nibble x ++ sel)

/-- The word of an instruction, by its format and pattern (R92, R96). -/
def encode : Instr → Word
  | .clearDisplay => 0x00E0
  | .ret => 0x00EE
  | .jump nnn => formatA 0x1 nnn
  | .call nnn => formatA 0x2 nnn
  | .skipEqConst x kk => formatXK 0x3 x kk
  | .skipNeConst x kk => formatXK 0x4 x kk
  | .skipEqReg x y => formatXY 0x5 x y 0x0
  | .setConst x kk => formatXK 0x6 x kk
  | .addConst x kk => formatXK 0x7 x kk
  | .set x y => formatXY 0x8 x y 0x0
  | .or x y => formatXY 0x8 x y 0x1
  | .and x y => formatXY 0x8 x y 0x2
  | .xor x y => formatXY 0x8 x y 0x3
  | .add x y => formatXY 0x8 x y 0x4
  | .sub x y => formatXY 0x8 x y 0x5
  | .shiftRight x y => formatXY 0x8 x y 0x6
  | .subN x y => formatXY 0x8 x y 0x7
  | .shiftLeft x y => formatXY 0x8 x y 0xE
  | .skipNeReg x y => formatXY 0x9 x y 0x0
  | .setI nnn => formatA 0xA nnn
  | .rand x kk => formatXK 0xC x kk
  | .draw x y n => formatXYN 0xD x y n
  | .skipKeyPressed x => formatXS 0xE x 0x9E
  | .skipKeyNotPressed x => formatXS 0xE x 0xA1
  | .getDelay x => formatXS 0xF x 0x07
  | .haltUntilPressed x => formatXS 0xF x 0x0A
  | .setDelay x => formatXS 0xF x 0x15
  | .setSound x => formatXS 0xF x 0x18
  | .addI x => formatXS 0xF x 0x1E
  | .loadFont x => formatXS 0xF x 0x29
  | .storeBcd x => formatXS 0xF x 0x33
  | .storeV x => formatXS 0xF x 0x55
  | .loadV x => formatXS 0xF x 0x65

/-- The bytes of an instruction in the order they are stored. -/
def encodeBytes (i : Instr) : List Byte := bytesOfWord (encode i)

/-- One row of the opcode table: a word is this row's instruction exactly when `w and mask = pattern` (R96). -/
structure OpcodeRow where
  mnemonic : String
  mask : Word
  pattern : Word
  deriving DecidableEq, Repr

/-- Rows 1 to 9 and 19 to 22 of the table of R96: everything but families 8, E and F. -/
def opcodeTableMain : List OpcodeRow :=
  [⟨"ClearDisplay", 0xFFFF, 0x00E0⟩, ⟨"Return", 0xFFFF, 0x00EE⟩, ⟨"Jump", 0xF000, 0x1000⟩,
   ⟨"Call", 0xF000, 0x2000⟩, ⟨"SkipEqConst", 0xF000, 0x3000⟩, ⟨"SkipNeConst", 0xF000, 0x4000⟩,
   ⟨"SkipEqReg", 0xF00F, 0x5000⟩, ⟨"SetConst", 0xF000, 0x6000⟩, ⟨"AddConst", 0xF000, 0x7000⟩,
   ⟨"SkipNeReg", 0xF00F, 0x9000⟩, ⟨"SetI", 0xF000, 0xA000⟩, ⟨"Rand", 0xF000, 0xC000⟩, ⟨"Draw", 0xF000, 0xD000⟩]

/-- Rows 10 to 18 of the table of R96. -/
def opcodeTable8 : List OpcodeRow :=
  [⟨"Set", 0xF00F, 0x8000⟩, ⟨"Or", 0xF00F, 0x8001⟩, ⟨"And", 0xF00F, 0x8002⟩, ⟨"Xor", 0xF00F, 0x8003⟩,
   ⟨"Add", 0xF00F, 0x8004⟩, ⟨"Sub", 0xF00F, 0x8005⟩, ⟨"ShiftRight", 0xF00F, 0x8006⟩, ⟨"SubN", 0xF00F, 0x8007⟩,
   ⟨"ShiftLeft", 0xF00F, 0x800E⟩]

/-- Rows 23 to 33 of the table of R96. -/
def opcodeTableEF : List OpcodeRow :=
  [⟨"SkipKeyPressed", 0xF0FF, 0xE09E⟩, ⟨"SkipKeyNotPressed", 0xF0FF, 0xE0A1⟩, ⟨"GetDelay", 0xF0FF, 0xF007⟩,
   ⟨"HaltUntilPressed", 0xF0FF, 0xF00A⟩, ⟨"SetDelay", 0xF0FF, 0xF015⟩, ⟨"SetSound", 0xF0FF, 0xF018⟩,
   ⟨"AddI", 0xF0FF, 0xF01E⟩, ⟨"LoadFont", 0xF0FF, 0xF029⟩, ⟨"StoreBcd", 0xF0FF, 0xF033⟩,
   ⟨"StoreV", 0xF0FF, 0xF055⟩, ⟨"LoadV", 0xF0FF, 0xF065⟩]

/-- The opcode table: 33 rows (R96). -/
def opcodeTable : List OpcodeRow := opcodeTableMain ++ opcodeTable8 ++ opcodeTableEF

/-- A word has a row's pattern (R96). -/
def OpcodeRow.accepts (r : OpcodeRow) (w : Word) : Bool := w &&& r.mask == r.pattern

end Sys2Proof
end

