-- ==== Sys2Proof/Machine/Framebuffer.lean ====
section
/-! DEFINITION. The framebuffer as plain data and the XOR blit over it (10_state.md R35, 44_display.md R201 to R203). -/

namespace Sys2Proof.Machine

/-- The rows of the screen, top row first, each its cells from the left (R35, R201). -/
abbrev Framebuffer := List (List Bool)

/-- The clear screen of `h` rows of `w` cells (R41, R200). -/
def blankScreen (w h : Nat) : Framebuffer := List.replicate h (List.replicate w false)

/-- `FB[row][col]`. -/
def cellAt (fb : Framebuffer) (row col : Nat) : Bool := (fb.getD row []).getD col false

/-- `FB[row][col] <- FB[row][col] xor 1`. -/
def toggleCell (fb : Framebuffer) (row col : Nat) : Framebuffer := fb.modify row fun cells => cells.modify col (! ·)

/-- The screen has `h` rows of `w` cells (R35). -/
def screenShaped (w h : Nat) (fb : Framebuffer) : Bool := fb.length == h && fb.all fun cells => cells.length == w

/-- The cells in row-major order: cell (col, row) at index row * W + col (60_exceptions.md R262). -/
def rowMajor (fb : Framebuffer) : List Bool := fb.flatten

/-- What a draw in progress holds: the screen and the collision flag. -/
structure Blit where
  fb : Framebuffer
  collision : Bool
  deriving DecidableEq, Repr

/-- One set sprite bit on its target cell: collision if the cell is 1, then toggle (R203, R204). -/
def blitCell (row col : Nat) (d : Blit) : Blit where
  fb := toggleCell d.fb row col
  collision := cellAt d.fb row col || d.collision

/-- Sprite pixel `c` of a row byte, counted from the left: bit 7 - c (R201). -/
def spritePixel (b : Byte) (c : Nat) : Bool := b.getLsbD (7 - c)

/-- Columns `c`, `c + 1`, … of one sprite row at screen row `row`, its left edge at `vx` (R202, R203); `count` columns
are left. -/
def blitRow (w row vx : Nat) (b : Byte) (d : Blit) : (count c : Nat) → Blit
  | 0, _ => d
  | k + 1, c =>
    blitRow w row vx b (if spritePixel b c then blitCell row ((vx + c) % w) d else d) k (c + 1)

/-- Sprite rows from row `r` on (R202, R203). -/
def blitRows (w h vx vy : Nat) (d : Blit) : (bytes : List Byte) → (r : Nat) → Blit
  | [], _ => d
  | b :: bs, r => blitRows w h vx vy (blitRow w ((vy + r) % h) vx b d 8 0) bs (r + 1)

/-- The whole sprite drawn at column `vx`, row `vy`: the new screen and the collision flag (R203). -/
def blitSprite (w h vx vy : Nat) (bytes : List Byte) (fb : Framebuffer) : Blit :=
  blitRows w h vx vy { fb := fb, collision := false } bytes 0

end Sys2Proof.Machine
end

