-- ==== Sys2Proof/Config.lean ====
section
/-! DEFINITION. What an implementation fixes (the open parameters of 00_scope.md R5) and the one free value (R11).
The parameters' default values stand in Machine/Parameters.lean. -/

namespace Sys2Proof

/-- `SHIFT_SOURCE`: which register the two shift instructions read (42_constants_alu.md R172). -/
inductive ShiftSource where
  | vx
  | vy
  deriving DecidableEq, Repr

/-- One glyph of the font: 5 bytes, top row first (20_memory.md R66). -/
abbrev Glyph := Vector Byte 5

/-- The parameters of 00_scope.md R5 that the spec leaves open. State carries one of these, so a statement about every
state holds for every value of every parameter. -/
structure Params where
  /-- `DISPLAY_WIDTH`, W. -/
  displayWidth : Nat
  /-- `DISPLAY_HEIGHT`, H. -/
  displayHeight : Nat
  /-- `SHIFT_SOURCE`. -/
  shiftSource : ShiftSource
  /-- `KEY_EDGE_ON_REPEAT`. -/
  keyEdgeOnRepeat : Bool
  /-- `FONT`, glyph d at addresses 5*d to 5*d + 4. -/
  font : Vector Glyph 16
  deriving DecidableEq, Repr

/-- The bytes `rand8()` delivers, by the number of bytes drawn before (00_scope.md R11). FREE VALUE: it has no body, so
nothing can be proved of any of its values. -/
opaque Config.randomByte : Nat → Byte

end Sys2Proof
end

