-- ==== Sys2Proof/Machine/Parameters.lean ====
section
/-! DEFINITION. The fixed numbers and the default parameter values of 00_scope.md R5. -/

namespace Sys2Proof.Machine

/-- `MEM_SIZE`, in bytes (R5, R60). -/
@[simp] def memSize : Nat := 4096

/-- `ROM_BASE`, also `PC_RESET` (R5). -/
@[simp] def romBase : Nat := 0x200

/-- `ROM_MAX` (R5, R282). -/
@[simp] def romMax : Nat := 3584

/-- `FONT_SIZE`, in bytes from `FONT_BASE` = 0 (R5, R62). -/
@[simp] def fontSize : Nat := 80

/-- Glyphs 0 to 7 of the table of 20_memory.md R66. PRESUMED: the spec takes the bytes from general knowledge (log 5). -/
def defaultFontLow : Vector Glyph 8 :=
  #v[#v[0xF0, 0x90, 0x90, 0x90, 0xF0], #v[0x20, 0x60, 0x20, 0x20, 0x70], #v[0xF0, 0x10, 0xF0, 0x80, 0xF0],
     #v[0xF0, 0x10, 0xF0, 0x10, 0xF0], #v[0x90, 0x90, 0xF0, 0x10, 0x10], #v[0xF0, 0x80, 0xF0, 0x10, 0xF0],
     #v[0xF0, 0x80, 0xF0, 0x90, 0xF0], #v[0xF0, 0x10, 0x20, 0x40, 0x40]]

/-- Glyphs 8 to F of the table of 20_memory.md R66. PRESUMED as above (log 5). -/
def defaultFontHigh : Vector Glyph 8 :=
  #v[#v[0xF0, 0x90, 0xF0, 0x90, 0xF0], #v[0xF0, 0x90, 0xF0, 0x10, 0xF0], #v[0xF0, 0x90, 0xF0, 0x90, 0x90],
     #v[0xE0, 0x90, 0xE0, 0x90, 0xE0], #v[0xF0, 0x80, 0x80, 0x80, 0xF0], #v[0xE0, 0x90, 0x90, 0x90, 0xE0],
     #v[0xF0, 0x80, 0xF0, 0x80, 0xF0], #v[0xF0, 0x80, 0xF0, 0x80, 0x80]]

/-- The default of every open parameter (R5; 92_eei_decisions.md D1 to D4, D19; logs 2 to 6). -/
def defaultParams : Params where
  displayWidth := 64
  displayHeight := 32
  shiftSource := .vx
  keyEdgeOnRepeat := false
  font := defaultFontLow ++ defaultFontHigh

/-- The byte `reset` leaves at an address: the font at 0x000 to 0x04F, zero elsewhere (10_state.md R41, 20_memory.md
R62). It is what an address the memory does not list reads as. -/
def resetByte (p : Params) (a : Nat) : Byte :=
  if h : a < 80 then (p.font[a / 5]'(by omega))[a % 5]'(Nat.mod_lt _ (by omega)) else 0

end Sys2Proof.Machine
end

