-- ==== Sys2Proof/Machine/Memory.lean ====
section
/-! DEFINITION. Memory as plain data in one canonical form: (address, byte) pairs with strictly rising addresses below
4096, none of them equal to what an unlisted address reads as (20_memory.md R60, R62). The operations here are total;
the bound of R69 is checked by the instructions before they reach them (Ops.lean, `withRange`). -/

namespace Sys2Proof.Machine

/-- The bytes of `M` that differ from their reset value. -/
abbrev Memory := List Host.Cell

/-- The listed byte at an address. -/
def Memory.find (m : Memory) (a : Nat) : Option Byte :=
  match m with
  | [] => none
  | (k, b) :: rest => if k = a then some b else Memory.find rest a

/-- `M[a]` (00_scope.md R9). -/
def Memory.read (p : Params) (m : Memory) (a : Nat) : Byte := (m.find a).getD (resetByte p a)

/-- List a byte at its place. -/
def Memory.insert (m : Memory) (a : Nat) (b : Byte) : Memory :=
  match m with
  | [] => [(a, b)]
  | (k, c) :: rest =>
    if a < k then (a, b) :: (k, c) :: rest
    else if a = k then (a, b) :: rest
    else (k, c) :: Memory.insert rest a b

/-- Take an address off the list. -/
def Memory.erase (m : Memory) (a : Nat) : Memory :=
  match m with
  | [] => []
  | (k, c) :: rest => if k = a then Memory.erase rest a else (k, c) :: Memory.erase rest a

/-- `M[a] <- b` (00_scope.md R9), keeping the canonical form. -/
def Memory.write (p : Params) (m : Memory) (a : Nat) (b : Byte) : Memory :=
  if b = resetByte p a then m.erase a else m.insert a b

/-- The bytes of a list at consecutive addresses, the first at the lowest (20_memory.md R68). -/
def Memory.writeBytes (p : Params) (m : Memory) (a : Nat) : List Byte → Memory
  | [] => m
  | b :: bs => Memory.writeBytes p (m.write p a b) (a + 1) bs

/-- Every listed address is at least `lo`, below 4096, above the one before it, and listed for a reason. -/
def Memory.wfFrom (p : Params) (lo : Nat) : Memory → Bool
  | [] => true
  | (k, b) :: rest =>
    decide (lo ≤ k) && decide (k < memSize) && decide (b ≠ resetByte p k) && Memory.wfFrom p (k + 1) rest

/-- The canonical form. -/
def Memory.wf (p : Params) (m : Memory) : Bool := Memory.wfFrom p 0 m

end Sys2Proof.Machine
end

