-- ==== Sys2Proof/Machine/State.lean ====
section
/-! DEFINITION. The machine's state, whole (10_state.md R20), its faults and refusals, and the state after reset (R41). -/

namespace Sys2Proof.Machine

/-- The host's six commands (10_state.md R45). A key index is a 4-bit input (92_eei_decisions.md D20). -/
inductive Command where
  | reset
  | load (rom : List Byte)
  | cycle
  | tickTimers
  | setKey (index : Key) (pressed : Bool)
  | framebuffer
  deriving DecidableEq, Repr

/-- The errors of 60_exceptions.md R240, with the information each records. Each is the hardware's own result `Err` of
the command that detected it, and that command changed nothing (R128). SAFE as stops: a run ends at its first error,
where the hardware would let the host issue another command (log 26); `issue` (HostCommands.lean) goes on. -/
inductive Fault where
  /-- Raised by `cycle` when the fetched word is outside the 33 patterns (R241). Safe. -/
  | unknownOpcode (w : Word)
  /-- Raised by the fetch of `cycle` when `pc > 4094` (R242). Safe. -/
  | pcOutOfBounds (pc : Word)
  /-- Raised by `Call` when `sp = 16` (R243). Safe. -/
  | stackOverflow
  /-- Raised by `Return` when `sp = 0` (R244). Safe. -/
  | stackUnderflow
  /-- In the spec's list and raised by nothing: a register index is a 4-bit field (R246). Safe. -/
  | invalidRegisterIndex
  /-- Raised by `Draw`, `StoreBcd`, `StoreV`, `LoadV` when a byte of their range lies above 4095; `a` is the lowest such
  address (R245). Safe. -/
  | addressOutOfBounds (a : Nat)
  /-- Raised by the two key skips when `V[x] > 15`; `v` is `V[x]` (R247). Safe. -/
  | invalidKeyIndex (v : Byte)
  /-- Raised by the host's `load` when the ROM has more than 3584 bytes (R249). Safe. -/
  | romTooLarge (length : Nat)
  deriving DecidableEq, Repr

/-- Why a step has no meaning. -/
inductive Refusal where
  /-- Raised by `exec` for an instruction that has no meaning yet. Safe. No arm uses it now. -/
  | notModelled (mnemonic : String)
  /-- Raised by every command but `reset` before the first `reset`: the spec gives no state then, and says to refuse
  (10_state.md R42, 70_reset_and_hazards.md R281). Safe. -/
  | beforeFirstReset
  deriving DecidableEq, Repr

/-- The state. The fields down to `mem` are the whole state of the core (R20); the last four are the model's own
(R38: parameters, the position in the random source, the host's commands, and whether it has reset the core). -/
structure State where
  /-- `V[0..15]` (R21). -/
  v : Vector Byte 16
  /-- `I` (R24). -/
  i : Word
  /-- `pc` (R25). -/
  pc : Word
  /-- `stack[0..15]` (R29). -/
  stack : Vector Word 16
  /-- `sp`, 0 to 16 (R30). -/
  sp : Fin 17
  /-- `DT` (R31). -/
  dt : Byte
  /-- `ST` (R32). -/
  st : Byte
  /-- `held[0..15]` (R33). -/
  held : Vector Bool 16
  /-- `edge` (R34). -/
  edge : Option Key
  /-- `FB` (R35). -/
  fb : Framebuffer
  /-- `M` (R36). -/
  mem : Memory
  /-- The open parameters of 00_scope.md R5; nothing changes them (log 1). -/
  params : Params
  /-- How many random bytes have been drawn (R11, log 25). -/
  draws : Nat
  /-- The commands the host still issues; when there are none, it issues one more `cycle` (R45, R46, log 27). -/
  script : List Command
  /-- Whether the first `reset` has been issued (R42, log 24). -/
  afterReset : Bool
  deriving DecidableEq, Repr

/-- What a command or an instruction gives. -/
abbrev Result := Host.Outcome State Fault Refusal

/-- The state right after `reset`, for given parameters (R41). -/
def State.resetWith (p : Params) : State where
  v := Vector.replicate 16 0
  i := 0
  pc := 0x200
  stack := Vector.replicate 16 0
  sp := 0
  dt := 0
  st := 0
  held := Vector.replicate 16 false
  edge := none
  fb := blankScreen p.displayWidth p.displayHeight
  mem := []
  params := p
  draws := 0
  script := []
  afterReset := true

/-- The state right after `reset`, with the default parameters (R41, 00_scope.md R5). -/
def State.reset : State := State.resetWith defaultParams

end Sys2Proof.Machine
end

