-- ==== Sys2Proof/Machine/Ops.lean ====
section
/-! DEFINITION. The named operations over registers, memory, stack and screen that the meanings share, and raising an
error (00_scope.md R8 to R10). -/

namespace Sys2Proof.Machine

/-! ## Errors -/

/-- `raise E(info)`: the command ends with the error and nothing is changed (00_scope.md R10, 60_exceptions.md R250). No
state is saved and there is no handler; nor is there a return from an error to model beside it (R251). -/
def raise (f : Fault) : Result := .fault f

/-- The two code spaces of 60_exceptions.md R240: results of `cycle`, and results of `load`. -/
inductive ErrorCode where
  | ofCycle (n : Nat)
  | ofLoad (n : Nat)
  deriving DecidableEq, Repr

/-- The code of an error (R240). -/
def errorCode : Fault → ErrorCode
  | .unknownOpcode _ => .ofCycle 1
  | .pcOutOfBounds _ => .ofCycle 2
  | .stackOverflow => .ofCycle 3
  | .stackUnderflow => .ofCycle 4
  | .invalidRegisterIndex => .ofCycle 5
  | .addressOutOfBounds _ => .ofCycle 6
  | .invalidKeyIndex _ => .ofCycle 7
  | .romTooLarge _ => .ofLoad 1

/-! ## Registers -/

/-- `V[r]` (00_scope.md R8). -/
def State.getV (s : State) (r : Reg) : Byte := s.v.get r

/-- `V[r] <- b` (R8). -/
def State.setV (s : State) (r : Reg) (b : Byte) : State := { s with v := s.v.set r.val b r.isLt }

/-- All the registers at once. -/
def State.setRegs (s : State) (v : Vector Byte 16) : State := { s with v := v }

/-- A result to `V[x]`, then a flag to VF, so that the flag wins when `x = 15` (10_state.md R23). -/
def State.setWithFlag (s : State) (x : Reg) (result flag : Byte) : State := (s.setV x result).setV VF flag

/-- `V[0]` to `V[x]`, in order (43_index_memory.md R184). -/
def State.regsUpTo (s : State) (x : Reg) : List Byte := s.v.toList.take (x.val + 1)

/-- `I <- w` (R8). -/
def State.setI (s : State) (w : Word) : State := { s with i := w }

/-! ## The program counter (10_state.md R26) -/

/-- `pc <- target`. -/
def State.goto (s : State) (target : Word) : State := { s with pc := target }

/-- `pc <- pc + 2`. -/
def State.advance (s : State) : State := s.goto (s.pc + 2)

/-- `pc <- pc + 4` if the condition holds, else `pc <- pc + 2`. -/
def State.skipIf (s : State) (c : Bool) : State := s.goto (if c then s.pc + 4 else s.pc + 2)

/-! ## The call stack (10_state.md R29, R30) -/

/-- `stack[k]`. -/
def State.entry (s : State) (k : Fin 16) : Word := s.stack.get k

/-- `stack[k] <- w`. -/
def State.setEntry (s : State) (k : Fin 16) (w : Word) : State := { s with stack := s.stack.set k.val w k.isLt }

/-- `sp <- n`. -/
def State.setSp (s : State) (n : Fin 17) : State := { s with sp := n }

/-- `stack[sp] <- ret; sp <- sp + 1`, or the error of a full stack. -/
def pushThen (s : State) (ret : Word) (k : State → Result) : Result :=
  if h : s.sp.val < 16 then
    k ((s.setEntry ⟨s.sp.val, h⟩ ret).setSp ⟨s.sp.val + 1, by omega⟩)
  else raise .stackOverflow

/-- `sp <- sp - 1` and the entry there, or the error of an empty stack; the entry keeps its value. -/
def popThen (s : State) (k : Word → State → Result) : Result :=
  if h : 0 < s.sp.val then
    k (s.entry ⟨s.sp.val - 1, by omega⟩) (s.setSp ⟨s.sp.val - 1, by omega⟩)
  else raise .stackUnderflow

/-! ## Timers and keys (10_state.md R31 to R34) -/

/-- `DT <- b`. -/
def State.setDt (s : State) (b : Byte) : State := { s with dt := b }

/-- `ST <- b`. -/
def State.setSt (s : State) (b : Byte) : State := { s with st := b }

/-- `held[k]`. -/
def State.isHeld (s : State) (k : Key) : Bool := s.held.get k

/-- `held[k] <- b`. -/
def State.setHeld (s : State) (k : Key) (b : Bool) : State := { s with held := s.held.set k.val b k.isLt }

/-- `edge <- e`. -/
def State.setEdge (s : State) (e : Option Key) : State := { s with edge := e }

/-! ## Memory (20_memory.md R68 to R71) -/

/-- `M[a]`, for an address in range. -/
def State.byteAt (s : State) (a : Nat) : Byte := s.mem.read s.params a

/-- `M[a]` to `M[a + n - 1]`, lowest address first (R68). -/
def State.bytesAt (s : State) (a n : Nat) : List Byte := (List.range n).map fun k => s.byteAt (a + k)

/-- Bytes to consecutive addresses from `a`, lowest first (R68). -/
def State.storeBytes (s : State) (a : Nat) (bytes : List Byte) : State :=
  { s with mem := s.mem.writeBytes s.params a bytes }

/-- The check an instruction makes before it touches the `count` bytes at `base`: the error with the lowest offending
address if one of them lies above 4095, and nothing at all when `count` is 0 (R69, R71). -/
def withRange (base count : Nat) (k : Result) : Result :=
  if 0 < count ∧ 4095 < base + count - 1 then raise (.addressOutOfBounds (max base 4096)) else k

/-! ## The framebuffer (10_state.md R35) -/

/-- `FB[row][col]`. -/
def State.cell (s : State) (row col : Nat) : Bool := cellAt s.fb row col

/-- A new screen. -/
def State.setFb (s : State) (fb : Framebuffer) : State := { s with fb := fb }

/-! ## The random source (00_scope.md R11) -/

/-- The byte `rand8()` delivers now: a FREE VALUE (log 25). -/
def State.rand8 (s : State) : Byte := Config.randomByte s.draws

/-- One byte of the random source has been taken. -/
def State.drawn (s : State) : State := { s with draws := s.draws + 1 }

end Sys2Proof.Machine
end

