-- ==== Sys2Proof/Machine/Flags.lean ====
section
/-! DEFINITION. Every flag computation: what the six flag writers put in VF (10_state.md R22), as 0 or 1. The sixth, the
collision of `Draw`, is computed by the blit (Framebuffer.lean). -/

namespace Sys2Proof.Machine

/-- A flag as the byte written to VF: 1 or 0 (R22). -/
def flagByte (b : Bool) : Byte := if b then 1 else 0

/-- Carry of an 8-bit addition: 1 iff the sum exceeds 255 (42_constants_alu.md R166). -/
def carryFlag (a b : Byte) : Byte := flagByte (decide (255 < a.toNat + b.toNat))

/-- No-borrow of `a - b`: 1 iff `a >= b` (R167, R169). -/
def noBorrowFlag (a b : Byte) : Byte := flagByte (decide (b.toNat ≤ a.toNat))

/-- The bit a right shift by one shifts out: bit 0 (R168). -/
def shiftRightFlag (a : Byte) : Byte := flagByte (a.getLsbD 0)

/-- The bit a left shift by one shifts out: bit 7 (R170). -/
def shiftLeftFlag (a : Byte) : Byte := flagByte (a.getLsbD 7)

end Sys2Proof.Machine
end

