-- ==== Sys2Proof/Machine/Operands.lean ====
section
/-! DEFINITION. The operand forms (30_encoding.md R93, 20_memory.md R70): register fields index V directly, immediates are
unsigned and unscaled, and the only memory operand is base plus offset from `I`. -/

namespace Sys2Proof.Machine

/-- `zext_16(nnn)` (R93). -/
def zext16 (nnn : Addr12) : Word := nnn.setWidth 16

/-- `zext_16` of a byte (43_index_memory.md R181, R182). -/
def byteToWord (b : Byte) : Word := b.setWidth 16

/-- `zext_8(k)` of a key index (45_keys_timers.md R223). -/
def keyToByte (k : Key) : Byte := BitVec.ofNat 8 k.val

/-- The base address of a memory operand: `I` as an unbounded integer, so that `I + k` never wraps (20_memory.md R70). -/
def State.base (s : State) : Nat := s.i.toNat

/-- The register a shift reads: `V[x]` or `V[y]`, by `SHIFT_SOURCE` (42_constants_alu.md R172). -/
def State.shiftOperand (s : State) (x y : Reg) : Byte :=
  match s.params.shiftSource with
  | .vx => s.getV x
  | .vy => s.getV y

/-- The key index in `V[x]`, or the error if it is above 15 (45_keys_timers.md R220); it is not masked. -/
def withKey (s : State) (x : Reg) (k : Key → Result) : Result :=
  if h : (s.getV x).toNat < 16 then k ⟨(s.getV x).toNat, h⟩ else raise (.invalidKeyIndex (s.getV x))

/-- The three decimal digits of a byte, hundreds first (43_index_memory.md R183). -/
def bcdDigits (b : Byte) : List Byte :=
  [BitVec.ofNat 8 (b.toNat / 100), BitVec.ofNat 8 (b.toNat / 10 % 10), BitVec.ofNat 8 (b.toNat % 10)]

/-- The font address of a digit: the whole byte times 5 (43_index_memory.md R182). -/
def glyphAddress (b : Byte) : Word := BitVec.ofNat 16 (b.toNat * 5)

end Sys2Proof.Machine
end

