-- ==== Sys2Proof/Machine/Alu.lean ====
section
/-! DEFINITION. Meanings of the constant, register ALU and random instructions (42_constants_alu.md). Each ends with
`pc <- pc + 2` and none can raise an error. -/

namespace Sys2Proof.Machine

/-- `SetConst Vx, kk` (R160). -/
def execSetConst (x : Reg) (kk : Byte) (s : State) : Result := .next (s.setV x kk).advance

/-- `AddConst Vx, kk` (R161): modulo 256, no flag. -/
def execAddConst (x : Reg) (kk : Byte) (s : State) : Result := .next (s.setV x (s.getV x + kk)).advance

/-- `Set Vx, Vy` (R162). -/
def execSet (x y : Reg) (s : State) : Result := .next (s.setV x (s.getV y)).advance

/-- `Or Vx, Vy` (R163): no flag. -/
def execOr (x y : Reg) (s : State) : Result := .next (s.setV x (s.getV x ||| s.getV y)).advance

/-- `And Vx, Vy` (R164): no flag. -/
def execAnd (x y : Reg) (s : State) : Result := .next (s.setV x (s.getV x &&& s.getV y)).advance

/-- `Xor Vx, Vy` (R165): no flag. -/
def execXor (x y : Reg) (s : State) : Result := .next (s.setV x (s.getV x ^^^ s.getV y)).advance

/-- `Add Vx, Vy` (R166). -/
def execAdd (x y : Reg) (s : State) : Result :=
  let a := s.getV x
  let b := s.getV y
  .next (s.setWithFlag x (a + b) (carryFlag a b)).advance

/-- `Sub Vx, Vy` (R167). -/
def execSub (x y : Reg) (s : State) : Result :=
  let a := s.getV x
  let b := s.getV y
  .next (s.setWithFlag x (a - b) (noBorrowFlag a b)).advance

/-- `ShiftRight Vx {, Vy}` (R168, R172): logical, by one. -/
def execShiftRight (x y : Reg) (s : State) : Result :=
  let a := s.shiftOperand x y
  .next (s.setWithFlag x (a >>> 1) (shiftRightFlag a)).advance

/-- `SubN Vx, Vy` (R169): `V[y] - V[x]` to `V[x]`. -/
def execSubN (x y : Reg) (s : State) : Result :=
  let a := s.getV x
  let b := s.getV y
  .next (s.setWithFlag x (b - a) (noBorrowFlag b a)).advance

/-- `ShiftLeft Vx {, Vy}` (R170, R172): by one. -/
def execShiftLeft (x y : Reg) (s : State) : Result :=
  let a := s.shiftOperand x y
  .next (s.setWithFlag x (a <<< 1) (shiftLeftFlag a)).advance

/-- `Rand Vx, kk` (R173): a byte of the random source, a free value, masked by `kk`. -/
def execRand (x : Reg) (kk : Byte) (s : State) : Result := .next (s.drawn.setV x (s.rand8 &&& kk)).advance

end Sys2Proof.Machine
end

