-- ==== Sys2Proof/Machine/ControlFlow.lean ====
section
/-! DEFINITION. Meanings of the control flow instructions (41_control_flow.md). -/

namespace Sys2Proof.Machine

/-- `Return` (R140): pop, and go to the popped entry without a further advance. -/
def execReturn (s : State) : Result := popThen s fun entry t => .next (t.goto entry)

/-- `Jump nnn` (R141). -/
def execJump (nnn : Addr12) (s : State) : Result := .next (s.goto (zext16 nnn))

/-- `Call nnn` (R142): push `pc + 2`, and go to the target. -/
def execCall (nnn : Addr12) (s : State) : Result := pushThen s (s.pc + 2) fun t => .next (t.goto (zext16 nnn))

/-- `SkipEqConst Vx, kk` (R143). -/
def execSkipEqConst (x : Reg) (kk : Byte) (s : State) : Result := .next (s.skipIf (s.getV x == kk))

/-- `SkipNeConst Vx, kk` (R144). -/
def execSkipNeConst (x : Reg) (kk : Byte) (s : State) : Result := .next (s.skipIf (s.getV x != kk))

/-- `SkipEqReg Vx, Vy` (R145). -/
def execSkipEqReg (x y : Reg) (s : State) : Result := .next (s.skipIf (s.getV x == s.getV y))

/-- `SkipNeReg Vx, Vy` (R146). -/
def execSkipNeReg (x y : Reg) (s : State) : Result := .next (s.skipIf (s.getV x != s.getV y))

end Sys2Proof.Machine
end

