-- ==== Sys2Proof/Machine/Display.lean ====
section
/-! DEFINITION. Meanings of the display instructions (44_display.md). -/

namespace Sys2Proof.Machine

/-- `ClearDisplay` (R200). -/
def execClearDisplay (s : State) : Result :=
  .next (s.setFb (blankScreen s.params.displayWidth s.params.displayHeight)).advance

/-- The `n` sprite bytes at `I` drawn at (`V[x]`, `V[y]`): column and row are read before VF is written (R203). -/
def State.spriteDrawn (s : State) (x y : Reg) (n : Nat) : Blit :=
  blitSprite s.params.displayWidth s.params.displayHeight (s.getV x).toNat (s.getV y).toNat (s.bytesAt s.base n) s.fb

/-- `Draw Vx, Vy, n` (R203). -/
def execDraw (x y : Reg) (n : Fin 16) (s : State) : Result :=
  withRange s.base n.val
    (let d := s.spriteDrawn x y n.val
     .next ((s.setFb d.fb).setV VF (flagByte d.collision)).advance)

end Sys2Proof.Machine
end

