-- ==== Sys2Proof/Machine/IndexMemory.lean ====
section
/-! DEFINITION. Meanings of the index register and memory instructions (43_index_memory.md). `I` is never changed by an
access. -/

namespace Sys2Proof.Machine

/-- `SetI nnn` (R180). -/
def execSetI (nnn : Addr12) (s : State) : Result := .next (s.setI (zext16 nnn)).advance

/-- `AddI Vx` (R181): modulo 65536, no flag. -/
def execAddI (x : Reg) (s : State) : Result := .next (s.setI (s.i + byteToWord (s.getV x))).advance

/-- `LoadFont Vx` (R182). -/
def execLoadFont (x : Reg) (s : State) : Result := .next (s.setI (glyphAddress (s.getV x))).advance

/-- `StoreBcd Vx` (R183). -/
def execStoreBcd (x : Reg) (s : State) : Result :=
  withRange s.base 3 (.next (s.storeBytes s.base (bcdDigits (s.getV x))).advance)

/-- `StoreV Vx` (R184): `V[0]` to `V[x]`. -/
def execStoreV (x : Reg) (s : State) : Result :=
  withRange s.base (x.val + 1) (.next (s.storeBytes s.base (s.regsUpTo x)).advance)

/-- The register file after `V[0]` to `V[x]` are loaded from memory at `base` (R185). -/
def State.regsLoaded (s : State) (x : Reg) (base : Nat) : Vector Byte 16 :=
  Vector.ofFn fun r : Reg => if r ≤ x then s.byteAt (base + r.val) else s.getV r

/-- `LoadV Vx` (R185). -/
def execLoadV (x : Reg) (s : State) : Result :=
  withRange s.base (x.val + 1) (.next (s.setRegs (s.regsLoaded x s.base)).advance)

end Sys2Proof.Machine
end

