-- ==== Sys2Proof/Machine/KeysTimers.lean ====
section
/-! DEFINITION. Meanings of the key and timer instructions (45_keys_timers.md). -/

namespace Sys2Proof.Machine

/-- `SkipKeyPressed Vx` (R220). -/
def execSkipKeyPressed (x : Reg) (s : State) : Result := withKey s x fun k => .next (s.skipIf (s.isHeld k))

/-- `SkipKeyNotPressed Vx` (R221). -/
def execSkipKeyNotPressed (x : Reg) (s : State) : Result := withKey s x fun k => .next (s.skipIf (!s.isHeld k))

/-- `GetDelay Vx` (R222). -/
def execGetDelay (x : Reg) (s : State) : Result := .next (s.setV x s.dt).advance

/-- `HaltUntilPressed Vx` (R223): a full latch is written to `V[x]`; an empty one stalls, which changes nothing. -/
def execHaltUntilPressed (x : Reg) (s : State) : Result :=
  match s.edge with
  | some k => .next (s.setV x (keyToByte k)).advance
  | none => .next s

/-- `SetDelay Vx` (R224). -/
def execSetDelay (x : Reg) (s : State) : Result := .next (s.setDt (s.getV x)).advance

/-- `SetSound Vx` (R225). -/
def execSetSound (x : Reg) (s : State) : Result := .next (s.setSt (s.getV x)).advance

end Sys2Proof.Machine
end

