-- ==== Sys2Proof/Machine/Cycle.lean ====
section
/-! DEFINITION. The `cycle` command: fetch, decode, dispatch, common tail (40_execution_cycle.md). -/

namespace Sys2Proof.Machine

/-- `Fetch(pc)` (R121): both bytes must lie in memory, and nothing else is checked. -/
def fetch (s : State) : Option Word :=
  if s.pc.toNat ≤ 4094 then some (wordOfBytes (s.byteAt s.pc.toNat) (s.byteAt (s.pc.toNat + 1))) else none

/-- The instruction at `pc`, if the fetch succeeds and the word is one of the 33 patterns. -/
def State.instrAt (s : State) : Option Instr :=
  match fetch s with
  | none => none
  | some w =>
    match decode w with
    | .known i => some i
    | .unknown _ => none

/-- The common tail (R125): after an instruction that raised no error, `edge <- None`. -/
def commonTail : Result → Result
  | .next s => .next (s.setEdge none)
  | .fault f => .fault f
  | .refused r => .refused r

/-- `Unknown(w)` (R127). -/
def execUnknown (w : Word) : Result := raise (.unknownOpcode w)

/-- `cycle` (R120): one instruction, or one error and nothing changed. -/
def cycle (s : State) : Result :=
  match fetch s with
  | none => raise (.pcOutOfBounds s.pc)
  | some w =>
    match decode w with
    | .known i => commonTail (exec i s)
    | .unknown u => execUnknown u

end Sys2Proof.Machine
end

