-- ==== Sys2Proof/WellFormed.lean ====
section
/-! DEFINITION. Well-formedness as decidable checks: an instruction's operands fit the fields of its format, the
parameters lie in the ranges of 00_scope.md R5, and a ROM fits the ROM region. An instruction's operand types already
bound its fields, so `Instr.wf` holds of every instruction (Laws/PerInstr.lean); the other two checks refuse terms. -/

namespace Sys2Proof

/-- `v` fits a field of `bits` bits (30_encoding.md R91). -/
def fitsField (bits v : Nat) : Bool := decide (v < 2 ^ bits)

/-- Every operand fits its field: nnn in 12 bits, kk in 8, x, y and n in 4 (30_encoding.md R91, R92). -/
def Instr.wf : Instr → Bool
  | .clearDisplay | .ret => true
  | .jump nnn | .call nnn | .setI nnn => fitsField 12 nnn.toNat
  | .skipEqConst x kk | .skipNeConst x kk | .setConst x kk | .addConst x kk | .rand x kk =>
    fitsField 4 x.val && fitsField 8 kk.toNat
  | .skipEqReg x y | .set x y | .or x y | .and x y | .xor x y | .add x y | .sub x y | .shiftRight x y
  | .subN x y | .shiftLeft x y | .skipNeReg x y => fitsField 4 x.val && fitsField 4 y.val
  | .draw x y n => fitsField 4 x.val && fitsField 4 y.val && fitsField 4 n.val
  | .skipKeyPressed x | .skipKeyNotPressed x | .getDelay x | .haltUntilPressed x | .setDelay x | .setSound x
  | .addI x | .loadFont x | .storeBcd x | .storeV x | .loadV x => fitsField 4 x.val

/-- `n` is a power of two. -/
def isPowerOfTwo (n : Nat) : Bool := 2 ^ n.log2 == n

/-- `DISPLAY_WIDTH` is a power of two from 8 to 256 (00_scope.md R5). -/
def widthAllowed (w : Nat) : Bool := isPowerOfTwo w && decide (8 ≤ w) && decide (w ≤ 256)

/-- `DISPLAY_HEIGHT` is a power of two from 16 to 256 (00_scope.md R5). -/
def heightAllowed (h : Nat) : Bool := isPowerOfTwo h && decide (16 ≤ h) && decide (h ≤ 256)

/-- The parameters lie in the ranges of 00_scope.md R5. -/
def Params.wf (p : Params) : Bool := widthAllowed p.displayWidth && heightAllowed p.displayHeight

/-- A ROM of at most 3584 bytes fits the ROM region (70_reset_and_hazards.md R282). -/
def romFits (rom : List Byte) : Bool := decide (rom.length ≤ 3584)

end Sys2Proof
end

