-- ==== Sys2Proof/Machine/HostCommands.lean ====
section
/-! DEFINITION. The host's six commands (10_state.md R45), what each returns, and sequences of them. -/

namespace Sys2Proof.Machine

/-- `reset` (70_reset_and_hazards.md R280): every piece of the core's state takes its value of 10_state.md R41. What is
outside the core stays: the parameters, the position in the random source (R261) and the host's own commands. -/
def commandReset (s : State) : Result :=
  .next { State.resetWith s.params with draws := s.draws, script := s.script }

/-- `load(rom)` (R282, R283): the bytes go to 0x200 upward and nothing else changes, or nothing changes. -/
def commandLoad (rom : List Byte) (s : State) : Result :=
  if romFits rom then .next (s.storeBytes romBase rom) else raise (.romTooLarge rom.length)

/-- One timer, one tick (60_exceptions.md R256): down by 1, stopping at 0. -/
def tick (b : Byte) : Byte := if 0 < b.toNat then b - 1 else b

/-- `tick_timers` (R256). -/
def commandTickTimers (s : State) : Result := .next ((s.setDt (tick s.dt)).setSt (tick s.st))

/-- `set_key(index, pressed)` (R258): a press of a key that was not held latches the edge, and so does a repeated press
when `KEY_EDGE_ON_REPEAT`. -/
def commandSetKey (k : Key) (pressed : Bool) (s : State) : Result :=
  let t := s.setHeld k pressed
  .next (if pressed && (!s.isHeld k || s.params.keyEdgeOnRepeat) then t.setEdge (some k) else t)

/-- `framebuffer` (R262): it changes nothing. -/
def commandFramebuffer (s : State) : Result := .next s

/-- The cells the host reads (R262). -/
def State.view (s : State) : List Bool := rowMajor s.fb

/-- The one command that has a meaning before the first `reset` (10_state.md R42). -/
def Command.isReset : Command → Bool
  | .reset => true
  | .load _ | .cycle | .tickTimers | .setKey _ _ | .framebuffer => false

/-- One command, whole (R45, R46). Before the first `reset` every other command is refused (R42). -/
def runCommand (c : Command) (s : State) : Result :=
  if s.afterReset || c.isReset then
    match c with
    | .reset => commandReset s
    | .load rom => commandLoad rom s
    | .cycle => cycle s
    | .tickTimers => commandTickTimers s
    | .setKey k pressed => commandSetKey k pressed s
    | .framebuffer => commandFramebuffer s
  else .refused .beforeFirstReset

/-- What a command returns to the host (R45; 40_execution_cycle.md R126; 30_encoding.md R106). -/
inductive Reply where
  /-- no result, or `Ok` of `load` -/
  | done
  /-- `Ok(instr)` of `cycle` -/
  | executed (i : Instr)
  /-- the cells of `framebuffer` -/
  | cells (bits : List Bool)
  /-- `Err(error, info)` -/
  | error (f : Fault)
  /-- no meaning (R42) -/
  | noMeaning (r : Refusal)
  deriving DecidableEq, Repr

/-- The reply of a command that succeeds in state `s`. -/
def okReply (c : Command) (s : State) : Reply :=
  match c with
  | .cycle =>
    match s.instrAt with
    | some i => .executed i
    | none => .done
  | .framebuffer => .cells s.view
  | .reset | .load _ | .tickTimers | .setKey _ _ => .done

/-- A command as the host sees it: the state it leaves and the reply. An error leaves the state as it was (R128, R282),
and the host may go on (60_exceptions.md R251). -/
def issue (c : Command) (s : State) : State × Reply :=
  match runCommand c s with
  | .next t => (t, okReply c s)
  | .fault f => (s, .error f)
  | .refused r => (s, .noMeaning r)

/-- A sequence of commands, each on the state its predecessor left (R46), and their replies. -/
def issueAll : List Command → State → State × List Reply
  | [], s => (s, [])
  | c :: cs, s =>
    let (t, r) := issue c s
    let (u, rs) := issueAll cs t
    (u, r :: rs)

end Sys2Proof.Machine
end

