-- ==== Sys2Proof/Machine/Step.lean ====
section
/-! DEFINITION. One step: the next command of the host, or one more `cycle` when it has none listed (10_state.md R45,
R46); and placing an instruction where the next step fetches. -/

namespace Sys2Proof.Machine

/-- The host issues its next command, whole. -/
def step (s : State) : Host.Outcome State Fault Refusal :=
  match s.script with
  | [] => runCommand .cycle s
  | c :: rest => runCommand c { s with script := rest }

/-- Where a word is placed for the next fetch: at `pc`, or at 0x200 when nothing can be fetched at `pc` (log 35). -/
def fetchPlace (s : State) : Word := if s.pc.toNat ≤ 4094 then s.pc else 0x200

/-- `s` with the instruction `w` where the very next step fetches it: its two bytes in memory, high byte first, and the
next command a `cycle` after the first reset (log 35). -/
def State.withFetchWord (s : State) (nbits w : Nat) : State :=
  { s with
    pc := fetchPlace s
    mem := s.mem.writeBytes s.params (fetchPlace s).toNat (bytesOfWord (BitVec.ofNat 16 (w % 2 ^ nbits)))
    script := []
    afterReset := true }

end Sys2Proof.Machine
end

