-- ==== Sys2Proof/Safety.lean ====
section
/-! DEFINITION. The terms claims use: safe steps and runs, the states a run can reach, the machine's invariant, and
what it is for part of the state to be unchanged. -/

namespace Sys2Proof.Machine

/-- The step gives a next state: no error, no refusal. -/
def stepsSafely (s : State) : Prop := ∃ t, step s = .next t

/-- `n` steps from `s`, all safe, end in `t`. -/
def RunsTo : Nat → State → State → Prop
  | 0, s, t => s = t
  | n + 1, s, t => ∃ u, step s = .next u ∧ RunsTo n u t

/-- A run has gone wrong when a command returns an error (70_reset_and_hazards.md R294). -/
def hasGoneWrong (s : State) : Prop := ∃ f, step s = .fault f

/-- A run is finished when `pc` holds the address of a `Jump` to that same address (R294). -/
def isFinished (s : State) : Bool :=
  match s.instrAt with
  | some (.jump nnn) => zext16 nnn == s.pc
  | _ => false

/-- The core waits for a key: the word at `pc` is `HaltUntilPressed` and the latch is empty (10_state.md R39). -/
def isWaitingForKey (s : State) : Bool :=
  match s.instrAt with
  | some (.haltUntilPressed _) => s.edge == none
  | _ => false

/-- The states a run reaches from `reset` with any allowed parameters, any commands of the host, and the random source
at any position (R46). -/
inductive Reachable : State → Prop where
  | reset (p : Params) (allowed : p.wf = true) (cmds : List Command) (n : Nat) :
    Reachable { State.resetWith p with script := cmds, draws := n }
  | step {s t : State} (before : Reachable s) (runs : step s = .next t) : Reachable t

/-- What holds in every state a run reaches (10_state.md R40; the ranges its other clauses name are the types' own). -/
structure Invariant (s : State) : Prop where
  /-- The memory is in its canonical form. -/
  memory : Memory.wf s.params s.mem = true
  /-- The screen has H rows of W cells (R35). -/
  screen : screenShaped s.params.displayWidth s.params.displayHeight s.fb = true
  /-- The parameters lie in the ranges of 00_scope.md R5. -/
  params : s.params.wf = true
  /-- `pc <= 0x1002` (R27, R40). -/
  pc : s.pc.toNat ≤ 0x1002
  /-- Every stack entry is at most 4096 (R27). -/
  stack : ∀ k : Fin 16, (s.entry k).toNat ≤ 4096

/-- The parts of a state. -/
inductive Part where
  | v | i | pc | stack | sp | dt | st | held | edge | fb | mem | params | draws | script | afterReset
  deriving DecidableEq, Repr

/-- A part reads in `t` as it does in `s`. Memory is compared byte by byte, at every address. -/
def samePart (s t : State) : Part → Prop
  | .v => ∀ r, t.getV r = s.getV r
  | .i => t.i = s.i
  | .pc => t.pc = s.pc
  | .stack => ∀ k : Fin 16, t.entry k = s.entry k
  | .sp => t.sp = s.sp
  | .dt => t.dt = s.dt
  | .st => t.st = s.st
  | .held => ∀ k, t.isHeld k = s.isHeld k
  | .edge => t.edge = s.edge
  | .fb => t.fb = s.fb
  | .mem => ∀ a, t.byteAt a = s.byteAt a
  | .params => t.params = s.params
  | .draws => t.draws = s.draws
  | .script => t.script = s.script
  | .afterReset => t.afterReset = s.afterReset

/-- Every part but the listed ones is unchanged from `s` to `t`. -/
def unchangedBut (changed : List Part) (s t : State) : Prop := ∀ part, part ∉ changed → samePart s t part

end Sys2Proof.Machine
end

