-- ==== Sys2Proof/Certificates/Slice0/Obligations.lean ====
section
/-! DEFINITION. The statements for the provers. Words and fields are written as bit strings, high bits first
(00_scope.md R6); `unchangedBut [..] s t` is the frame: every part of the state not listed reads in `t` as in `s`, memory
at every address (Safety.lean). A statement over every state holds for every value of the open parameters, which State
carries. -/

namespace Sys2Proof.Statements

open Sys2Proof.Machine

/-- Some set bit of the `n` sprite bytes at `I`, drawn at (`V[x]`, `V[y]`), lands on cell (`row`, `col`): pixel (r, c) is
bit 7 - c of byte r and goes to row (V[y] + r) mod H, column (V[x] + c) mod W (44_display.md R201, R202). -/
def spriteCovers (s : State) (x y : Reg) (n row col : Nat) : Prop :=
  ∃ r c : Nat, r < n ∧ c < 8 ∧ (s.byteAt (s.i.toNat + r)).getLsbD (7 - c) = true ∧
    row = ((s.getV y).toNat + r) % s.params.displayHeight ∧ col = ((s.getV x).toNat + c) % s.params.displayWidth

/-- The sprite has a set bit. -/
def spriteHasSetBit (s : State) (n : Nat) : Prop :=
  ∃ r c : Nat, r < n ∧ c < 8 ∧ (s.byteAt (s.i.toNat + r)).getLsbD c = true

/-- The screen and the parameters a draw needs: H rows of W cells, W and H in the ranges of 00_scope.md R5. -/
def screenOk (s : State) : Prop :=
  s.params.wf = true ∧ screenShaped s.params.displayWidth s.params.displayHeight s.fb = true

/-- The six flag writers (10_state.md R22). -/
def isFlagWriter : Instr → Prop
  | .add _ _ | .sub _ _ | .subN _ _ | .shiftRight _ _ | .shiftLeft _ _ | .draw _ _ _ => True
  | _ => False

/-- The instruction names VF as its plain destination (10_state.md R43). -/
def hasDestinationVF : Instr → Prop
  | .setConst x _ | .addConst x _ | .set x _ | .or x _ | .and x _ | .xor x _ | .rand x _ | .getDelay x
  | .haltUntilPressed x | .loadV x => x = 15
  | _ => False

/-- How an instruction that gives a next state leaves `pc` (10_state.md R26). -/
def pcAfter (i : Instr) (s t : State) : Prop :=
  match i with
  | .jump nnn | .call nnn => t.pc.toNat = nnn.toNat
  | .ret => ∃ k : Fin 16, s.sp.val = k.val + 1 ∧ t.pc = s.entry k
  | .skipEqConst x kk => t.pc = if s.getV x = kk then s.pc + 4 else s.pc + 2
  | .skipNeConst x kk => t.pc = if s.getV x ≠ kk then s.pc + 4 else s.pc + 2
  | .skipEqReg x y => t.pc = if s.getV x = s.getV y then s.pc + 4 else s.pc + 2
  | .skipNeReg x y => t.pc = if s.getV x ≠ s.getV y then s.pc + 4 else s.pc + 2
  | .skipKeyPressed x => ∃ k : Key, k.val = (s.getV x).toNat ∧ t.pc = if s.isHeld k then s.pc + 4 else s.pc + 2
  | .skipKeyNotPressed x => ∃ k : Key, k.val = (s.getV x).toNat ∧ t.pc = if s.isHeld k then s.pc + 2 else s.pc + 4
  | .haltUntilPressed _ => t.pc = if s.edge.isSome then s.pc + 2 else s.pc
  | .clearDisplay | .setConst _ _ | .addConst _ _ | .set _ _ | .or _ _ | .and _ _ | .xor _ _ | .add _ _ | .sub _ _
  | .shiftRight _ _ | .subN _ _ | .shiftLeft _ _ | .setI _ | .rand _ _ | .draw _ _ _ | .getDelay _ | .setDelay _
  | .setSound _ | .addI _ | .loadFont _ | .storeBcd _ | .storeV _ | .loadV _ => t.pc = s.pc + 2

/-- Two outcomes that agree but for the sound timer of a next state. -/
def agreeButSound : Result → Result → Prop
  | .next t, .next u => t.setSt 0 = u.setSt 0
  | .fault f, .fault g => f = g
  | .refused p, .refused q => p = q
  | _, _ => False

end Sys2Proof.Statements

open Sys2Proof Sys2Proof.Machine Sys2Proof.Statements

/-! ## Encoding -/

/-- Decoding the bytes of any instruction gives it back with the bytes after it, every operand at every value
(30_encoding.md R91, R92, R95; byte order 20_memory.md R67). -/
def Obligations.DecodeOfEncodeIsTheInstruction : Prop :=
  ∀ (i : Instr) (rest : List Byte), decodeBytes (encodeBytes i ++ rest) = .ok (i, rest)

/-- R96: 33 rows; a word is the instruction of a row exactly when `w and mask = match`; and its operands are the bits the
row's format leaves free, so that encoding them again gives the word. -/
def Obligations.WordsMatchTheOpcodeTable : Prop :=
  opcodeTable.length = 33 ∧
  (∀ (w : Word) (r : OpcodeRow), r ∈ opcodeTable →
    (w &&& r.mask = r.pattern ↔ ∃ i, decode w = .known i ∧ i.mnemonic = r.mnemonic)) ∧
  ∀ (w : Word) (i : Instr), decode w = .known i → encode i = w

/-- R95, which the spec derives from R91 and R96: the 33 patterns are pairwise disjoint, no word matches two. -/
def Obligations.OpcodePatternsAreDisjoint : Prop :=
  ∀ (w : Word) (r q : OpcodeRow), r ∈ opcodeTable → q ∈ opcodeTable →
    w &&& r.mask = r.pattern → w &&& q.mask = q.pattern → r = q

/-- R98: the words that decode to `Unknown`, by top nibble, carrying the raw word; the exact match is the spec's own
decision D16 (log 17). -/
def Obligations.UnknownWordsAreExactlyTheListedOnes : Prop :=
  (∀ w u : Word, decode w = .unknown u → u = w) ∧
  ∀ w : Word, decode w = .unknown w ↔
    let op := w.toNat / 4096
    let n := w.toNat % 16
    let kk := w.toNat % 256
    (op = 0x0 ∧ w ≠ 0x00E0 ∧ w ≠ 0x00EE) ∨
    (op = 0x5 ∧ n ≠ 0) ∨
    (op = 0x8 ∧ (n = 8 ∨ n = 9 ∨ n = 0xA ∨ n = 0xB ∨ n = 0xC ∨ n = 0xD ∨ n = 0xF)) ∨
    (op = 0x9 ∧ n ≠ 0) ∨
    op = 0xB ∨
    (op = 0xE ∧ kk ≠ 0x9E ∧ kk ≠ 0xA1) ∨
    (op = 0xF ∧ kk ≠ 0x07 ∧ kk ≠ 0x0A ∧ kk ≠ 0x15 ∧ kk ≠ 0x18 ∧ kk ≠ 0x1E ∧ kk ≠ 0x29 ∧ kk ≠ 0x33 ∧ kk ≠ 0x55 ∧
      kk ≠ 0x65)

/-- Words written out from the formats of R92 and the table of R96, one or more a family (95_test_vectors.md 2.1).
That 0xB123 and 0x5011 are `Unknown` is the spec's own decisions D17 and D16 (log 17). -/
def Obligations.SampleWordsDecode : Prop :=
  decode 0b0000000011100000 = .known .clearDisplay ∧ decode 0b0001101010111100 = .known (.jump 0xABC) ∧
  decode 0b0011101001111111 = .known (.skipEqConst 10 0x7F) ∧ decode 0b1000101010110110 = .known (.shiftRight 10 11) ∧
  decode 0b1010000100100011 = .known (.setI 0x123) ∧ decode 0b1100001100001111 = .known (.rand 3 0x0F) ∧
  decode 0b1101001000110101 = .known (.draw 2 3 5) ∧ decode 0b1110000110011110 = .known (.skipKeyPressed 1) ∧
  decode 0b1111001100001010 = .known (.haltUntilPressed 3) ∧ decode 0b1111001001100101 = .known (.loadV 2) ∧
  decode 0b1011000100100011 = .unknown 0xB123 ∧ decode 0b0101000000010001 = .unknown 0x5011

/-! ## The cycle and the step -/

/-- When the bytes at `pc` decode to an instruction and the host's next command is `cycle`, the step is `exec` of it with
the common tail `edge <- None` around a next state; `s'` is `s` with that command taken off the script. -/
def Obligations.StepRunsTheDecodedInstruction : Prop :=
  ∀ (s s' : State) (i : Instr), s.afterReset = true →
    (s.script = [] ∧ s' = s ∨ ∃ rest, s.script = .cycle :: rest ∧ s' = { s with script := rest }) →
    s.pc.toNat ≤ 4094 →
    decode (s.byteAt s.pc.toNat ++ s.byteAt (s.pc.toNat + 1)) = .known i →
    (∀ t, exec i s' = .next t → step s = .next (t.setEdge none)) ∧
    ∀ f, exec i s' = .fault f → step s = .fault f

/-- R120, R126: the `cycle` command whole, with what it returns: the executed instruction, or one error with the state
unchanged. The fetch bound in it is the spec's own decision D13 (log 14), the reply `Ok(instr)`, of a stall
as of any instruction, D30 and D37 (log 31), the latch kept on an error D25 (log 23). -/
def Obligations.CycleExecutesOneInstructionOrReportsOneError : Prop :=
  ∀ s : State, s.afterReset = true →
    (4094 < s.pc.toNat → issue .cycle s = (s, .error (.pcOutOfBounds s.pc))) ∧
    ∀ w, fetch s = some w →
      (∀ u, decode w = .unknown u → issue .cycle s = (s, .error (.unknownOpcode w))) ∧
      ∀ i, decode w = .known i →
        (∀ t, exec i s = .next t → issue .cycle s = (t.setEdge none, .executed i)) ∧
        (∀ f, exec i s = .fault f → issue .cycle s = (s, .error f))

/-- R121, R242: the fetch, big-endian, at any `pc` up to 4094, odd or even; above, the error before anything else. The
bound and the missing alignment check are the spec's own decisions D13 and D14 (log 14, 15). -/
def Obligations.FetchReadsTwoBytesOrPcIsOutOfBounds : Prop :=
  ∀ s : State, s.afterReset = true →
    (4094 < s.pc.toNat → fetch s = none ∧ (s.script = [] → step s = .fault (.pcOutOfBounds s.pc))) ∧
    (s.pc.toNat ≤ 4094 → ∃ w, fetch s = some w ∧
      w.toNat = (s.byteAt s.pc.toNat).toNat * 256 + (s.byteAt (s.pc.toNat + 1)).toNat)

/-- R127, R241: an unknown word is an error with the raw word, and nothing changes, `pc` and the latch included, so that
the next `cycle` fails the same way. That the latch is kept is the spec's own decision D25 (log 23). -/
def Obligations.UnknownWordRaisesUnknownOpcode : Prop :=
  ∀ (s : State) (w u : Word), s.afterReset = true → fetch s = some w → decode w = .unknown u →
    (s.script = [] → step s = .fault (.unknownOpcode w)) ∧
    issue .cycle s = (s, .error (.unknownOpcode w)) ∧
    issueAll [.cycle, .cycle] s = (s, [.error (.unknownOpcode w), .error (.unknownOpcode w)])

/-- R99, R100: every Bnnn and every 0nnn but the two listed words decode to `Unknown`, by the spec's own decisions D17
and D16 (log 17). -/
def Obligations.BnnnAndOther0nnnAreUnknown : Prop :=
  (∀ nnn : Addr12, decode (0xB#4 ++ nnn) = .unknown (0xB#4 ++ nnn)) ∧
  ∀ nnn : Addr12, nnn ≠ 0x0E0 → nnn ≠ 0x0EE → decode (0x0#4 ++ nnn) = .unknown (0x0#4 ++ nnn)

/-- R125: a cycle that does not fail leaves the latch empty, whatever it executed; one that fails leaves it as it was,
by the spec's own decision D25 (log 23). -/
def Obligations.EveryCycleThatSucceedsEmptiesTheKeyLatch : Prop :=
  ∀ s : State, (∀ t, cycle s = .next t → t.edge = none) ∧
    ∀ t f, issue .cycle s = (t, .error f) → t.edge = s.edge

/-- R129: no cycle changes a key or a parameter, none moves a timer but the two timer writers, which store a register,
and none draws a random byte but `Rand`, which draws one. -/
def Obligations.WhatNoCycleDoes : Prop :=
  ∀ s t : State, cycle s = .next t →
    (∀ k, t.isHeld k = s.isHeld k) ∧ t.params = s.params ∧ t.script = s.script ∧
    (t.dt = s.dt ∨ ∃ x, s.instrAt = some (.setDelay x) ∧ t.dt = s.getV x) ∧
    (t.st = s.st ∨ ∃ x, s.instrAt = some (.setSound x) ∧ t.st = s.getV x) ∧
    (t.draws = s.draws ∨ ∃ x kk, s.instrAt = some (.rand x kk) ∧ t.draws = s.draws + 1)

/-- R128, R251: a failed `cycle` changes nothing and repeating it repeats its error; the host may go on, and a `reset`
after it works as always. It rests on the spec's own decisions D25, D27 and D38 (log 23,
26); the values after that `reset` are those of R280 and R41, for `pc` and the latch by its own decision D23 (log 22). -/
def Obligations.FailedCycleChangesNothingAndRepeats : Prop :=
  ∀ (s t : State) (f : Fault), issue .cycle s = (t, .error f) →
    t = s ∧ issueAll [.cycle, .cycle, .cycle] s = (s, [.error f, .error f, .error f]) ∧
    ∃ u, issueAll [.cycle, .reset] s = (u, [.error f, .done]) ∧ u.pc = 0x200 ∧ u.sp = 0 ∧ u.edge = none

/-- R248 with the raisers of R240: the instructions that raise an error, exactly when and with what information.
The bounds and the key check are the spec's own decisions D12, D18 and D22 (log 13, 18, 21). -/
def Obligations.InstructionErrorsExactly : Prop :=
  ∀ (i : Instr) (s : State) (f : Fault), exec i s = .fault f ↔
    (i = .ret ∧ s.sp = 0 ∧ f = .stackUnderflow) ∨
    (∃ nnn, i = .call nnn ∧ s.sp = 16 ∧ f = .stackOverflow) ∨
    (∃ x, (i = .skipKeyPressed x ∨ i = .skipKeyNotPressed x) ∧ 15 < (s.getV x).toNat ∧
      f = .invalidKeyIndex (s.getV x)) ∨
    (∃ x y n, i = .draw x y n ∧ 0 < n.val ∧ 4095 < s.i.toNat + n.val - 1 ∧
      f = .addressOutOfBounds (max s.i.toNat 4096)) ∨
    (∃ x, i = .storeBcd x ∧ 4095 < s.i.toNat + 2 ∧ f = .addressOutOfBounds (max s.i.toNat 4096)) ∨
    (∃ x, (i = .storeV x ∨ i = .loadV x) ∧ 4095 < s.i.toNat + x.val ∧ f = .addressOutOfBounds (max s.i.toNat 4096))

/-- R123: every instruction has a rule; none is refused. -/
def Obligations.NoInstructionIsRefused : Prop :=
  ∀ (i : Instr) (s : State) (r : Refusal), exec i s ≠ .refused r

/-- R246: no step of the machine, whatever the host commands, raises `InvalidRegisterIndex`. -/
def Obligations.InvalidRegisterIndexIsNeverRaised : Prop :=
  ∀ s : State, step s ≠ .fault .invalidRegisterIndex

/-- R26, which the spec derives from R25 and R90: how every instruction leaves `pc`, and that a failed cycle leaves it
unchanged. -/
def Obligations.HowEveryInstructionLeavesPc : Prop :=
  (∀ (i : Instr) (s t : State), exec i s = .next t → pcAfter i s t) ∧
  ∀ (s t : State) (f : Fault), issue .cycle s = (t, .error f) → t.pc = s.pc

/-- Which instructions may change which part of the state (10_state.md R24, R29 to R35; 20_memory.md R60); the latch is
left to the common tail. That `StoreV` and `LoadV` leave `I` is the spec's own decision D11 (log 12), that `Return` leaves
the stack entries D15 (log 16). -/
def Obligations.OnlyTheNamedInstructionsChangeEachPart : Prop :=
  ∀ (i : Instr) (s t : State), exec i s = .next t →
    (samePart s t .mem ∨ ∃ x, i = .storeBcd x ∨ i = .storeV x) ∧
    (samePart s t .fb ∨ i = .clearDisplay ∨ ∃ x y n, i = .draw x y n) ∧
    (samePart s t .i ∨ (∃ nnn, i = .setI nnn) ∨ ∃ x, i = .addI x ∨ i = .loadFont x) ∧
    (samePart s t .stack ∨ ∃ nnn, i = .call nnn) ∧
    (samePart s t .sp ∨ i = .ret ∨ ∃ nnn, i = .call nnn) ∧
    (samePart s t .dt ∨ ∃ x, i = .setDelay x) ∧
    (samePart s t .st ∨ ∃ x, i = .setSound x) ∧
    (samePart s t .draws ∨ ∃ x kk, i = .rand x kk) ∧
    samePart s t .held ∧ samePart s t .edge ∧ samePart s t .params ∧ samePart s t .script ∧ samePart s t .afterReset

/-- R22: the six flag writers leave VF 0 or 1 on every execution; every other instruction leaves VF alone unless VF is
its destination. The write order is the spec's own decision D6, that logic and constant sums leave VF D7 to D9 (log 8, 9,
10). -/
def Obligations.OnlyTheSixFlagWritersTouchVFAsAFlag : Prop :=
  ∀ (i : Instr) (s t : State), exec i s = .next t →
    (isFlagWriter i → t.getV 15 = 0 ∨ t.getV 15 = 1) ∧
    (¬ isFlagWriter i → ¬ hasDestinationVF i → t.getV 15 = s.getV 15)

/-- Nothing reads the sound timer (10_state.md R32, R37): two states that differ in ST only take the same step, and
differ in ST only after it. -/
def Obligations.NothingDependsOnTheSoundTimer : Prop :=
  ∀ (s : State) (b : Byte), agreeButSound (step s) (step (s.setSt b))

/-! ## Control flow -/

/-- R140; that the popped entry keeps its value is the spec's own decision D15 (log 16). -/
def Obligations.ReturnPopsThePc : Prop :=
  decode 0x00EE = .known .ret ∧
  ∀ s : State,
    (s.sp = 0 → exec .ret s = .fault .stackUnderflow) ∧
    ∀ k : Fin 16, s.sp.val = k.val + 1 →
      ∃ t, exec .ret s = .next t ∧ t.sp.val = k.val ∧ t.pc = s.entry k ∧ unchangedBut [.sp, .pc] s t

/-- R141. -/
def Obligations.JumpGoesToItsTarget : Prop :=
  (∀ nnn : Addr12, decode (0x1#4 ++ nnn) = .known (.jump nnn)) ∧
  ∀ (nnn : Addr12) (s : State), ∃ t, exec (.jump nnn) s = .next t ∧ t.pc.toNat = nnn.toNat ∧ unchangedBut [.pc] s t

/-- R142; the pushed `pc + 2` is the spec's own decision D15 (log 16). -/
def Obligations.CallPushesTheReturnAddress : Prop :=
  (∀ nnn : Addr12, decode (0x2#4 ++ nnn) = .known (.call nnn)) ∧
  ∀ (nnn : Addr12) (s : State),
    (s.sp = 16 → exec (.call nnn) s = .fault .stackOverflow) ∧
    ∀ k : Fin 16, s.sp.val = k.val →
      ∃ t, exec (.call nnn) s = .next t ∧ t.sp.val = k.val + 1 ∧
        (∀ j, t.entry j = if j = k then s.pc + 2 else s.entry j) ∧ t.pc.toNat = nnn.toNat ∧
        unchangedBut [.stack, .sp, .pc] s t

/-- A `Return` undoes the `Call` before it (41_control_flow.md R140, R142): the pointer is back, and control is at the
instruction after the `Call`. -/
def Obligations.ReturnAfterCallResumesAfterIt : Prop :=
  ∀ (nnn : Addr12) (s t : State), exec (.call nnn) s = .next t →
    ∃ u, exec .ret t = .next u ∧ u.sp = s.sp ∧ u.pc = s.pc + 2 ∧ unchangedBut [.stack, .sp, .pc] s u

/-- R143, R144. -/
def Obligations.ConstantSkips : Prop :=
  (∀ (x : BitVec 4) (kk : Byte), decode (0x3#4 ++ (x ++ kk)) = .known (.skipEqConst x.toFin kk)) ∧
  (∀ (x : BitVec 4) (kk : Byte), decode (0x4#4 ++ (x ++ kk)) = .known (.skipNeConst x.toFin kk)) ∧
  ∀ (x : Reg) (kk : Byte) (s : State),
    (∃ t, exec (.skipEqConst x kk) s = .next t ∧ t.pc = (if (s.getV x).toNat = kk.toNat then s.pc + 4 else s.pc + 2) ∧
      unchangedBut [.pc] s t) ∧
    ∃ t, exec (.skipNeConst x kk) s = .next t ∧ t.pc = (if (s.getV x).toNat = kk.toNat then s.pc + 2 else s.pc + 4) ∧
      unchangedBut [.pc] s t

/-- R145, R146; that 5xyn and 9xyn with n not 0 are `Unknown` is the spec's own decision D16 (log 17). -/
def Obligations.RegisterSkips : Prop :=
  (∀ x y : BitVec 4, decode (0x5#4 ++ (x ++ (y ++ 0x0#4))) = .known (.skipEqReg x.toFin y.toFin)) ∧
  (∀ x y : BitVec 4, decode (0x9#4 ++ (x ++ (y ++ 0x0#4))) = .known (.skipNeReg x.toFin y.toFin)) ∧
  (∀ x y n : BitVec 4, n ≠ 0 →
    decode (0x5#4 ++ (x ++ (y ++ n))) = .unknown (0x5#4 ++ (x ++ (y ++ n))) ∧
    decode (0x9#4 ++ (x ++ (y ++ n))) = .unknown (0x9#4 ++ (x ++ (y ++ n)))) ∧
  ∀ (x y : Reg) (s : State),
    (∃ t, exec (.skipEqReg x y) s = .next t ∧
      t.pc = (if (s.getV x).toNat = (s.getV y).toNat then s.pc + 4 else s.pc + 2) ∧ unchangedBut [.pc] s t) ∧
    ∃ t, exec (.skipNeReg x y) s = .next t ∧
      t.pc = (if (s.getV x).toNat = (s.getV y).toNat then s.pc + 2 else s.pc + 4) ∧ unchangedBut [.pc] s t

/-! ## Constants and ALU -/

/-- R160, R161, R162: the destination alone is written; `AddConst` wraps and sets no flag, the spec's own
decision D8 (log 9). -/
def Obligations.SetAndAddConstants : Prop :=
  (∀ (x : BitVec 4) (kk : Byte), decode (0x6#4 ++ (x ++ kk)) = .known (.setConst x.toFin kk)) ∧
  (∀ (x : BitVec 4) (kk : Byte), decode (0x7#4 ++ (x ++ kk)) = .known (.addConst x.toFin kk)) ∧
  (∀ x y : BitVec 4, decode (0x8#4 ++ (x ++ (y ++ 0x0#4))) = .known (.set x.toFin y.toFin)) ∧
  ∀ (x y : Reg) (kk : Byte) (s : State),
    (∃ t, exec (.setConst x kk) s = .next t ∧ (∀ r, t.getV r = if r = x then kk else s.getV r) ∧ t.pc = s.pc + 2 ∧
      unchangedBut [.v, .pc] s t) ∧
    (∃ t, exec (.addConst x kk) s = .next t ∧
      (∀ r, (t.getV r).toNat = if r = x then ((s.getV x).toNat + kk.toNat) % 256 else (s.getV r).toNat) ∧
      t.pc = s.pc + 2 ∧ unchangedBut [.v, .pc] s t) ∧
    ∃ t, exec (.set x y) s = .next t ∧ (∀ r, t.getV r = if r = x then s.getV y else s.getV r) ∧ t.pc = s.pc + 2 ∧
      unchangedBut [.v, .pc] s t

/-- R163, R164, R165: bit by bit, and VF is not written unless it is the destination, the spec's own decision
D7 (log 9). -/
def Obligations.LogicWritesNoFlag : Prop :=
  (∀ x y : BitVec 4, decode (0x8#4 ++ (x ++ (y ++ 0x1#4))) = .known (.or x.toFin y.toFin)) ∧
  (∀ x y : BitVec 4, decode (0x8#4 ++ (x ++ (y ++ 0x2#4))) = .known (.and x.toFin y.toFin)) ∧
  (∀ x y : BitVec 4, decode (0x8#4 ++ (x ++ (y ++ 0x3#4))) = .known (.xor x.toFin y.toFin)) ∧
  ∀ (x y : Reg) (s : State),
    (∃ t, exec (.or x y) s = .next t ∧
      (∀ k < 8, (t.getV x).getLsbD k = ((s.getV x).getLsbD k || (s.getV y).getLsbD k)) ∧
      (∀ r, r ≠ x → t.getV r = s.getV r) ∧ t.pc = s.pc + 2 ∧ unchangedBut [.v, .pc] s t) ∧
    (∃ t, exec (.and x y) s = .next t ∧
      (∀ k < 8, (t.getV x).getLsbD k = ((s.getV x).getLsbD k && (s.getV y).getLsbD k)) ∧
      (∀ r, r ≠ x → t.getV r = s.getV r) ∧ t.pc = s.pc + 2 ∧ unchangedBut [.v, .pc] s t) ∧
    ∃ t, exec (.xor x y) s = .next t ∧
      (∀ k < 8, (t.getV x).getLsbD k = ((s.getV x).getLsbD k != (s.getV y).getLsbD k)) ∧
      (∀ r, r ≠ x → t.getV r = s.getV r) ∧ t.pc = s.pc + 2 ∧ unchangedBut [.v, .pc] s t

/-- R166: the sum modulo 256 and the carry, which wins when `x = 15` by the spec's own decision D6 (log 8). -/
def Obligations.AddSumsAndCarries : Prop :=
  (∀ x y : BitVec 4, decode (0x8#4 ++ (x ++ (y ++ 0x4#4))) = .known (.add x.toFin y.toFin)) ∧
  ∀ (x y : Reg) (s : State), ∃ t, exec (.add x y) s = .next t ∧
    (∀ r, (t.getV r).toNat =
      if r = 15 then (if (s.getV x).toNat + (s.getV y).toNat > 255 then 1 else 0)
      else if r = x then ((s.getV x).toNat + (s.getV y).toNat) % 256 else (s.getV r).toNat) ∧
    t.pc = s.pc + 2 ∧ unchangedBut [.v, .pc] s t

/-- R167, R169: the difference modulo 256, in the two orders, and no-borrow, which wins when
`x = 15` by the spec's own decision D6 (log 8). -/
def Obligations.SubAndSubNSubtract : Prop :=
  (∀ x y : BitVec 4, decode (0x8#4 ++ (x ++ (y ++ 0x5#4))) = .known (.sub x.toFin y.toFin)) ∧
  (∀ x y : BitVec 4, decode (0x8#4 ++ (x ++ (y ++ 0x7#4))) = .known (.subN x.toFin y.toFin)) ∧
  ∀ (x y : Reg) (s : State),
    (∃ t, exec (.sub x y) s = .next t ∧
      (∀ r, ((t.getV r).toNat : Int) =
        if r = 15 then (if (s.getV x).toNat ≥ (s.getV y).toNat then 1 else 0)
        else if r = x then (((s.getV x).toNat : Int) - (s.getV y).toNat) % 256 else (s.getV r).toNat) ∧
      t.pc = s.pc + 2 ∧ unchangedBut [.v, .pc] s t) ∧
    ∃ t, exec (.subN x y) s = .next t ∧
      (∀ r, ((t.getV r).toNat : Int) =
        if r = 15 then (if (s.getV y).toNat ≥ (s.getV x).toNat then 1 else 0)
        else if r = x then (((s.getV y).toNat : Int) - (s.getV x).toNat) % 256 else (s.getV r).toNat) ∧
      t.pc = s.pc + 2 ∧ unchangedBut [.v, .pc] s t

/-- R168, R170, R172: by one place, logical, from `V[x]` or, with `SHIFT_SOURCE = VY`, from `V[y]`; the bit shifted out
goes to VF last. The source register is the spec's open point D3, the write order its decision D6 (log 4, 8). -/
def Obligations.ShiftsMoveOnePlace : Prop :=
  (∀ x y : BitVec 4, decode (0x8#4 ++ (x ++ (y ++ 0x6#4))) = .known (.shiftRight x.toFin y.toFin)) ∧
  (∀ x y : BitVec 4, decode (0x8#4 ++ (x ++ (y ++ 0xE#4))) = .known (.shiftLeft x.toFin y.toFin)) ∧
  ∀ (x y : Reg) (s : State) (a : Nat),
    (s.params.shiftSource = .vx ∧ a = (s.getV x).toNat ∨ s.params.shiftSource = .vy ∧ a = (s.getV y).toNat) →
    (∃ t, exec (.shiftRight x y) s = .next t ∧
      (∀ r, (t.getV r).toNat = if r = 15 then a % 2 else if r = x then a / 2 else (s.getV r).toNat) ∧
      t.pc = s.pc + 2 ∧ unchangedBut [.v, .pc] s t) ∧
    ∃ t, exec (.shiftLeft x y) s = .next t ∧
      (∀ r, (t.getV r).toNat = if r = 15 then a / 128 else if r = x then (a * 2) % 256 else (s.getV r).toNat) ∧
      t.pc = s.pc + 2 ∧ unchangedBut [.v, .pc] s t

/-- R173: the byte drawn, masked; every result bit that is 0 in `kk` is 0, and the source moves on one place. The byte is a
free value (log 25), so this holds whatever the source delivers. -/
def Obligations.RandMasksAFreeByte : Prop :=
  (∀ (x : BitVec 4) (kk : Byte), decode (0xC#4 ++ (x ++ kk)) = .known (.rand x.toFin kk)) ∧
  ∀ (x : Reg) (kk : Byte) (s : State), ∃ t, exec (.rand x kk) s = .next t ∧
    (∀ r, t.getV r = if r = x then Config.randomByte s.draws &&& kk else s.getV r) ∧
    t.getV x &&& kk = t.getV x ∧ t.draws = s.draws + 1 ∧ t.pc = s.pc + 2 ∧ unchangedBut [.v, .pc, .draws] s t

/-! ## Index register and memory -/

/-- R180, R181, R182: `AddI` modulo 65536 and no flag, `LoadFont` of the whole byte, the spec's own
decisions D9 and D10 (log 10, 11). -/
def Obligations.IndexRegisterWriters : Prop :=
  (∀ nnn : Addr12, decode (0xA#4 ++ nnn) = .known (.setI nnn)) ∧
  (∀ x : BitVec 4, decode (0xF#4 ++ (x ++ 0x1E#8)) = .known (.addI x.toFin)) ∧
  (∀ x : BitVec 4, decode (0xF#4 ++ (x ++ 0x29#8)) = .known (.loadFont x.toFin)) ∧
  ∀ (nnn : Addr12) (x : Reg) (s : State),
    (∃ t, exec (.setI nnn) s = .next t ∧ t.i.toNat = nnn.toNat ∧ t.pc = s.pc + 2 ∧ unchangedBut [.i, .pc] s t) ∧
    (∃ t, exec (.addI x) s = .next t ∧ t.i.toNat = (s.i.toNat + (s.getV x).toNat) % 65536 ∧ t.pc = s.pc + 2 ∧
      unchangedBut [.i, .pc] s t) ∧
    ∃ t, exec (.loadFont x) s = .next t ∧ t.i.toNat = (s.getV x).toNat * 5 ∧ t.pc = s.pc + 2 ∧
      unchangedBut [.i, .pc] s t

/-- R183: three digits at three addresses, or the error with nothing written; the bound and its error are the spec's own
decision D12 (log 13). -/
def Obligations.StoreBcdStoresThreeDigits : Prop :=
  (∀ x : BitVec 4, decode (0xF#4 ++ (x ++ 0x33#8)) = .known (.storeBcd x.toFin)) ∧
  ∀ (x : Reg) (s : State),
    (s.i.toNat + 2 > 4095 → exec (.storeBcd x) s = .fault (.addressOutOfBounds (max s.i.toNat 4096))) ∧
    (s.i.toNat + 2 ≤ 4095 → ∃ t, exec (.storeBcd x) s = .next t ∧
      (t.byteAt s.i.toNat).toNat = (s.getV x).toNat / 100 ∧
      (t.byteAt (s.i.toNat + 1)).toNat = (s.getV x).toNat / 10 % 10 ∧
      (t.byteAt (s.i.toNat + 2)).toNat = (s.getV x).toNat % 10 ∧
      (∀ a, a < s.i.toNat ∨ s.i.toNat + 2 < a → t.byteAt a = s.byteAt a) ∧
      t.pc = s.pc + 2 ∧ unchangedBut [.mem, .pc] s t)

/-- R184: `V[0]` to `V[x]` at `I` upward, `I` unchanged, or the error with nothing written. That `I`
is unchanged is the spec's own decision D11, the bound D12 (log 12, 13). -/
def Obligations.StoreVStoresTheBlock : Prop :=
  (∀ x : BitVec 4, decode (0xF#4 ++ (x ++ 0x55#8)) = .known (.storeV x.toFin)) ∧
  ∀ (x : Reg) (s : State),
    (s.i.toNat + x.val > 4095 → exec (.storeV x) s = .fault (.addressOutOfBounds (max s.i.toNat 4096))) ∧
    (s.i.toNat + x.val ≤ 4095 → ∃ t, exec (.storeV x) s = .next t ∧
      (∀ k : Reg, k ≤ x → t.byteAt (s.i.toNat + k.val) = s.getV k) ∧
      (∀ a, a < s.i.toNat ∨ s.i.toNat + x.val < a → t.byteAt a = s.byteAt a) ∧
      t.pc = s.pc + 2 ∧ unchangedBut [.mem, .pc] s t)

/-- R185: `V[0]` to `V[x]` from `I` upward, every other register and memory unchanged, or the error with nothing
loaded. `I` unchanged and the bound are the spec's own decisions D11 and D12 (log 12, 13). -/
def Obligations.LoadVLoadsTheBlock : Prop :=
  (∀ x : BitVec 4, decode (0xF#4 ++ (x ++ 0x65#8)) = .known (.loadV x.toFin)) ∧
  ∀ (x : Reg) (s : State),
    (s.i.toNat + x.val > 4095 → exec (.loadV x) s = .fault (.addressOutOfBounds (max s.i.toNat 4096))) ∧
    (s.i.toNat + x.val ≤ 4095 → ∃ t, exec (.loadV x) s = .next t ∧
      (∀ r, t.getV r = if r ≤ x then s.byteAt (s.i.toNat + r.val) else s.getV r) ∧
      t.pc = s.pc + 2 ∧ unchangedBut [.v, .pc] s t)

/-- The next fetch sees a store (20_memory.md R75, R76): a `StoreV` over the following word is fetched as written, high
byte first. -/
def Obligations.StoreOverTheNextWordIsFetched : Prop :=
  ∀ (x : Reg) (s : State), 1 ≤ x.val → s.i = s.pc + 2 → s.i.toNat + x.val ≤ 4095 →
    ∃ t, exec (.storeV x) s = .next t ∧ ∃ w, fetch t = some w ∧ w.toNat = (s.getV 0).toNat * 256 + (s.getV 1).toNat

/-! ## Display -/

/-- R200. -/
def Obligations.ClearDisplayClearsEveryCell : Prop :=
  decode 0x00E0 = .known .clearDisplay ∧
  ∀ s : State, ∃ t, exec .clearDisplay s = .next t ∧
    (∀ row col, t.cell row col = false) ∧
    screenShaped s.params.displayWidth s.params.displayHeight t.fb = true ∧
    t.pc = s.pc + 2 ∧ unchangedBut [.fb, .pc] s t

/-- R201, R202, R203, R204: the cells under a set sprite bit, with wrap-around, are toggled and no others; VF is 1 if one
of them was 1, else 0; or the error with nothing changed. An empty sprite reads no memory and cannot fail.
The bit order and the screen's origin are the spec's own decision D5, from general knowledge (log 7); the bound is D12 and
the width of the coordinate sum D31 (log 13, 39). -/
def Obligations.DrawTogglesTheCoveredCells : Prop :=
  (∀ x y n : BitVec 4, decode (0xD#4 ++ (x ++ (y ++ n))) = .known (.draw x.toFin y.toFin n.toFin)) ∧
  ∀ (x y : Reg) (n : Fin 16) (s : State),
    (0 < n.val ∧ s.i.toNat + n.val - 1 > 4095 →
      exec (.draw x y n) s = .fault (.addressOutOfBounds (max s.i.toNat 4096))) ∧
    (n.val = 0 ∨ s.i.toNat + n.val - 1 ≤ 4095 → ∃ t, exec (.draw x y n) s = .next t ∧
      t.pc = s.pc + 2 ∧ (∀ r, r ≠ 15 → t.getV r = s.getV r) ∧ (t.getV 15 = 0 ∨ t.getV 15 = 1) ∧
      unchangedBut [.v, .fb, .pc] s t ∧
      (screenOk s →
        screenOk t ∧
        (∀ row col, row < s.params.displayHeight → col < s.params.displayWidth →
          (t.cell row col = true ↔ ¬ (s.cell row col = true ↔ spriteCovers s x y n row col))) ∧
        (t.getV 15 = 1 ↔ ∃ row col, spriteCovers s x y n row col ∧ s.cell row col = true)))

/-- The involution of 44_display.md R205: a second draw, with `I`, the sprite bytes, both coordinates and the screen as
the first left and used them, restores the screen; the premise holds at once after the first draw when neither coordinate
is VF. The second flag is 1 exactly when a covered cell was 0 before the first draw, as R203 gives it; a sprite with no
set bit gives 0, and one with a set bit gives 1 where every covered cell was 0 before (the condition R205 leaves unsaid,
log 36). -/
def Obligations.DrawingTwiceRestoresTheScreen : Prop :=
  ∀ (x y : Reg) (n : Fin 16) (s t : State), screenOk s → exec (.draw x y n) s = .next t →
    (∀ t' : State, t'.fb = t.fb → t'.params = s.params → t'.i = s.i → t'.getV x = s.getV x → t'.getV y = s.getV y →
      (∀ r < n.val, t'.byteAt (s.i.toNat + r) = s.byteAt (s.i.toNat + r)) →
      ∃ u, exec (.draw x y n) t' = .next u ∧ u.fb = s.fb ∧
        (u.getV 15 = 1 ↔ ∃ row col, spriteCovers s x y n row col ∧ s.cell row col = false) ∧
        (¬ spriteHasSetBit s n → u.getV 15 = 0) ∧
        (spriteHasSetBit s n → (∀ row col, spriteCovers s x y n row col → s.cell row col = false) → u.getV 15 = 1)) ∧
    (x ≠ 15 → y ≠ 15 → ∃ u, exec (.draw x y n) t = .next u ∧ u.fb = s.fb)

/-! ## Keys and timers -/

/-- R220, R221: the key index is all of `V[x]`; above 15 it is an error, the spec's own decision D18 (log 18). -/
def Obligations.KeySkips : Prop :=
  (∀ x : BitVec 4, decode (0xE#4 ++ (x ++ 0x9E#8)) = .known (.skipKeyPressed x.toFin)) ∧
  (∀ x : BitVec 4, decode (0xE#4 ++ (x ++ 0xA1#8)) = .known (.skipKeyNotPressed x.toFin)) ∧
  ∀ (x : Reg) (s : State),
    (15 < (s.getV x).toNat →
      exec (.skipKeyPressed x) s = .fault (.invalidKeyIndex (s.getV x)) ∧
      exec (.skipKeyNotPressed x) s = .fault (.invalidKeyIndex (s.getV x))) ∧
    ∀ k : Key, (s.getV x).toNat = k.val →
      (∃ t, exec (.skipKeyPressed x) s = .next t ∧ t.pc = (if s.isHeld k then s.pc + 4 else s.pc + 2) ∧
        unchangedBut [.pc] s t) ∧
      ∃ t, exec (.skipKeyNotPressed x) s = .next t ∧ t.pc = (if s.isHeld k then s.pc + 2 else s.pc + 4) ∧
        unchangedBut [.pc] s t

/-- R222, R224, R225; that Fx07 reads the delay timer is the spec's general knowledge (log 33). -/
def Obligations.TimerReadAndWrites : Prop :=
  (∀ x : BitVec 4, decode (0xF#4 ++ (x ++ 0x07#8)) = .known (.getDelay x.toFin)) ∧
  (∀ x : BitVec 4, decode (0xF#4 ++ (x ++ 0x15#8)) = .known (.setDelay x.toFin)) ∧
  (∀ x : BitVec 4, decode (0xF#4 ++ (x ++ 0x18#8)) = .known (.setSound x.toFin)) ∧
  ∀ (x : Reg) (s : State),
    (∃ t, exec (.getDelay x) s = .next t ∧ (∀ r, t.getV r = if r = x then s.dt else s.getV r) ∧ t.pc = s.pc + 2 ∧
      unchangedBut [.v, .pc] s t) ∧
    (∃ t, exec (.setDelay x) s = .next t ∧ t.dt = s.getV x ∧ t.pc = s.pc + 2 ∧ unchangedBut [.dt, .pc] s t) ∧
    ∃ t, exec (.setSound x) s = .next t ∧ t.st = s.getV x ∧ t.pc = s.pc + 2 ∧ unchangedBut [.st, .pc] s t

/-- R223: a full latch is written and `pc` advances; with an empty one the cycle succeeds and changes nothing at all.
A full latch is empty after the cycle. -/
def Obligations.HaltUntilPressedWaitsForAnEdge : Prop :=
  (∀ x : BitVec 4, decode (0xF#4 ++ (x ++ 0x0A#8)) = .known (.haltUntilPressed x.toFin)) ∧
  ∀ (x : Reg) (s : State),
    (∀ k : Key, s.edge = some k → ∃ t, exec (.haltUntilPressed x) s = .next t ∧
      (∀ r, (t.getV r).toNat = if r = x then k.val else (s.getV r).toNat) ∧ t.pc = s.pc + 2 ∧
      unchangedBut [.v, .pc] s t ∧ (s.instrAt = some (.haltUntilPressed x) → cycle s = .next (t.setEdge none))) ∧
    (s.edge = none → exec (.haltUntilPressed x) s = .next s ∧
      (s.instrAt = some (.haltUntilPressed x) → cycle s = .next s))

/-- R226: a press is seen by `HaltUntilPressed` if its cycle is the very next one; if the cycle of another instruction
succeeds in between, the press is forgotten, although the key is still held. -/
def Obligations.KeyPressIsLostAfterAnotherCycle : Prop :=
  ∀ (s p : State) (k : Key) (x : Reg), s.afterReset = true → s.isHeld k = false →
    runCommand (.setKey k true) s = .next p →
    (p.instrAt = some (.haltUntilPressed x) →
      ∃ t, cycle p = .next t ∧ (t.getV x).toNat = k.val ∧ t.pc = p.pc + 2 ∧ t.edge = none) ∧
    ∀ t, cycle p = .next t → t.isHeld k = true ∧
      (t.instrAt = some (.haltUntilPressed x) → cycle t = .next t)

/-! ## Host commands -/

/-- R256: each timer down by 1, stopping at 0, nothing else touched. -/
def Obligations.TickTimersCountsDownToZero : Prop :=
  ∀ s : State, s.afterReset = true → ∃ t, runCommand .tickTimers s = .next t ∧
    t.dt.toNat = s.dt.toNat - 1 ∧ t.st.toNat = s.st.toNat - 1 ∧ unchangedBut [.dt, .st] s t

/-- R258: the key is recorded; the latch is set on a not-held to held transition, or on any press when
`KEY_EDGE_ON_REPEAT`, and a release leaves it. The parameter is the spec's open point D19 (log 6). -/
def Obligations.SetKeyLatchesAnEdge : Prop :=
  ∀ (s : State) (k : Key) (pressed : Bool), s.afterReset = true →
    ∃ t, runCommand (.setKey k pressed) s = .next t ∧
      (∀ q, t.isHeld q = if q = k then pressed else s.isHeld q) ∧
      t.edge = (if pressed = true ∧ (s.isHeld k = false ∨ s.params.keyEdgeOnRepeat = true) then some k else s.edge) ∧
      unchangedBut [.held, .edge] s t

/-- R282, R283: an oversize ROM is rejected and nothing changes; another is copied to 0x200 upward and nothing else
changes, `pc` included, the spec's own decision D32 (log 28). -/
def Obligations.LoadCopiesOrRejects : Prop :=
  ∀ (s : State) (rom : List Byte), s.afterReset = true →
    (3584 < rom.length → issue (.load rom) s = (s, .error (.romTooLarge rom.length))) ∧
    (rom.length ≤ 3584 → ∃ t, issue (.load rom) s = (t, .done) ∧
      (∀ (k : Nat) (h : k < rom.length), t.byteAt (0x200 + k) = rom[k]) ∧
      (∀ a, a < 0x200 ∨ 0x200 + rom.length ≤ a → t.byteAt a = s.byteAt a) ∧ unchangedBut [.mem] s t)

/-- R280, R41: `reset` gives the values of the table from any state, the one before the first reset included, and so are
the values of State.reset. The parameters, the host's script and the position in the random source are outside the core
and stay (log 1, 25, 27); that the screen, `I`, `pc` and the latch are reset is the spec's own decision D23 (log 22). -/
def Obligations.ResetInstallsTheResetValues : Prop :=
  (∀ s : State, ∃ t, runCommand .reset s = .next t ∧ t.params = s.params ∧ t.script = s.script ∧ t.draws = s.draws ∧
    t.afterReset = true ∧ (∀ r, t.getV r = 0) ∧ t.i = 0 ∧ t.pc = 0x200 ∧ t.sp = 0 ∧ (∀ k, t.entry k = 0) ∧ t.dt = 0 ∧
    t.st = 0 ∧ (∀ k, t.isHeld k = false) ∧ t.edge = none ∧ (∀ row col, t.cell row col = false) ∧
    screenShaped s.params.displayWidth s.params.displayHeight t.fb = true ∧
    (∀ (d : Fin 16) (b : Fin 5), t.byteAt (5 * d.val + b.val) = (s.params.font.get d).get b) ∧
    ∀ a, 0x050 ≤ a → t.byteAt a = 0) ∧
  runCommand .reset State.reset = .next State.reset

/-- R262: the W*H cells in row-major order, and no state changes. -/
def Obligations.FramebufferShowsTheCellsRowMajor : Prop :=
  ∀ s : State, s.afterReset = true → screenOk s →
    issue .framebuffer s = (s, .cells s.view) ∧
    s.view.length = s.params.displayWidth * s.params.displayHeight ∧
    ∀ row col, row < s.params.displayHeight → col < s.params.displayWidth →
      s.view[row * s.params.displayWidth + col]? = some (s.cell row col)

/-- R42, R281: before the first `reset` every command but `reset` is refused and changes nothing, the spec's own
decision D24 (log 24). -/
def Obligations.OnlyResetHasAMeaningBeforeTheFirstReset : Prop :=
  ∀ (s : State) (c : Command), s.afterReset = false →
    (c ≠ .reset → runCommand c s = .refused .beforeFirstReset ∧ issue c s = (s, .noMeaning .beforeFirstReset)) ∧
    ∃ t, runCommand .reset s = .next t ∧ t.afterReset = true

/-! ## Invariants and ends of runs -/

/-- Every step, whatever the host's command, keeps: memory canonical, the screen's shape, allowed parameters, `pc` at most
0x1002, every stack entry at most 4096 (10_state.md R27, R40). -/
def Obligations.EveryStepKeepsTheInvariant : Prop :=
  ∀ s t : State, Invariant s → step s = .next t → Invariant t

/-- The state after reset meets the invariant, for every allowed value of the parameters. -/
def Obligations.ResetMeetsTheInvariant : Prop :=
  Invariant State.reset ∧ ∀ p : Params, p.wf = true → Invariant (State.resetWith p)

/-- R294: from a `Jump` to itself on, no cycle changes any state but `edge`, and the run stays finished. That
this is the end of a run is the spec's suggestion D34 (log 29). -/
def Obligations.SelfJumpIsTheEndOfARun : Prop :=
  ∀ s : State, isFinished s = true → cycle s = .next (s.setEdge none) ∧ isFinished (s.setEdge none) = true
end

