-- ==== Sys2Proof/Laws/Encoding.lean ====
section
/-! SUPPORT. The fields of a word put together from its fields (30_encoding.md R91). -/

namespace Sys2Proof

/-- A concatenation as a number (00_scope.md R6). -/
theorem toNat_append_eq {v w : Nat} (a : BitVec v) (b : BitVec w) : (a ++ b).toNat = a.toNat * 2 ^ w + b.toNat := by
  rw [BitVec.toNat_append, ← Nat.shiftLeft_add_eq_or_of_lt b.isLt, Nat.shiftLeft_eq]

section
variable (op x y n : BitVec 4) (kk : Byte) (nnn : Addr12)

theorem fieldOp_append : fieldOp (op ++ nnn) = op := by
  apply BitVec.eq_of_toNat_eq
  have := nnn.isLt; have := op.isLt
  simp only [fieldOp, BitVec.extractLsb'_toNat, toNat_append_eq]
  simp only [Nat.shiftRight_eq_div_pow]
  omega

theorem fieldNnn_append : fieldNnn (op ++ nnn) = nnn := by
  apply BitVec.eq_of_toNat_eq
  have := nnn.isLt; have := op.isLt
  simp only [fieldNnn, BitVec.extractLsb'_toNat, toNat_append_eq]
  simp only [Nat.shiftRight_eq_div_pow]
  omega

/-- A word whose low 12 bits are a nibble and a byte. -/
theorem toNat_append_nibble_byte : (op ++ (x ++ kk) : BitVec 16).toNat = op.toNat * 4096 + x.toNat * 256 + kk.toNat := by
  have := x.isLt; have := kk.isLt
  simp only [toNat_append_eq]
  omega

/-- A word of four nibbles. -/
theorem toNat_append_nibbles :
    (op ++ (x ++ (y ++ n)) : BitVec 16).toNat = op.toNat * 4096 + x.toNat * 256 + y.toNat * 16 + n.toNat := by
  have := y.isLt; have := n.isLt
  rw [toNat_append_nibble_byte, toNat_append_eq]
  omega

theorem fieldX_append_byte : fieldX (op ++ (x ++ kk)) = x.toFin := by
  apply Fin.ext
  have := x.isLt; have := kk.isLt; have := op.isLt
  simp only [fieldX, BitVec.val_toFin, BitVec.extractLsb'_toNat, toNat_append_nibble_byte, Nat.shiftRight_eq_div_pow]
  omega

theorem fieldKk_append_byte : fieldKk (op ++ (x ++ kk)) = kk := by
  apply BitVec.eq_of_toNat_eq
  have := x.isLt; have := kk.isLt
  simp only [fieldKk, BitVec.extractLsb'_toNat, toNat_append_nibble_byte, Nat.shiftRight_eq_div_pow]
  omega

theorem fieldY_append_nibbles : fieldY (op ++ (x ++ (y ++ n))) = y.toFin := by
  apply Fin.ext
  have := x.isLt; have := y.isLt; have := n.isLt
  simp only [fieldY, BitVec.val_toFin, BitVec.extractLsb'_toNat, toNat_append_nibbles, Nat.shiftRight_eq_div_pow]
  omega

theorem fieldN_append_nibbles : fieldN (op ++ (x ++ (y ++ n))) = n.toFin := by
  apply Fin.ext
  have := x.isLt; have := y.isLt; have := n.isLt
  simp only [fieldN, BitVec.val_toFin, BitVec.extractLsb'_toNat, toNat_append_nibbles, Nat.shiftRight_eq_div_pow]
  omega

end

/-- A nibble made of a register number gives the number back. -/
@[simp] theorem nibble_toFin (x : Fin 16) : (nibble x).toFin = x := rfl

@[simp] theorem nibble_of_toFin (b : BitVec 4) : nibble b.toFin = b := rfl

/-! The fields of the formats (30_encoding.md R92). -/

section
variable (op sel : BitVec 4) (sel8 : BitVec 8) (x y n : Fin 16) (kk : Byte) (nnn : Addr12)

@[simp] theorem fieldOp_formatA : fieldOp (formatA op nnn) = op := fieldOp_append op nnn
@[simp] theorem fieldNnn_formatA : fieldNnn (formatA op nnn) = nnn := fieldNnn_append op nnn
@[simp] theorem fieldOp_formatXK : fieldOp (formatXK op x kk) = op := fieldOp_append op _
@[simp] theorem fieldX_formatXK : fieldX (formatXK op x kk) = x := fieldX_append_byte op (nibble x) kk
@[simp] theorem fieldKk_formatXK : fieldKk (formatXK op x kk) = kk := fieldKk_append_byte op (nibble x) kk
@[simp] theorem fieldOp_formatXS : fieldOp (formatXS op x sel8) = op := fieldOp_append op _
@[simp] theorem fieldX_formatXS : fieldX (formatXS op x sel8) = x := fieldX_append_byte op (nibble x) sel8
@[simp] theorem fieldKk_formatXS : fieldKk (formatXS op x sel8) = sel8 := fieldKk_append_byte op (nibble x) sel8
@[simp] theorem fieldOp_formatXY : fieldOp (formatXY op x y sel) = op := fieldOp_append op _
@[simp] theorem fieldX_formatXY : fieldX (formatXY op x y sel) = x := fieldX_append_byte op (nibble x) _
@[simp] theorem fieldY_formatXY : fieldY (formatXY op x y sel) = y := fieldY_append_nibbles op (nibble x) (nibble y) sel
@[simp] theorem fieldN_formatXY : fieldN (formatXY op x y sel) = sel.toFin :=
  fieldN_append_nibbles op (nibble x) (nibble y) sel
@[simp] theorem fieldOp_formatXYN : fieldOp (formatXYN op x y n) = op := fieldOp_append op _
@[simp] theorem fieldX_formatXYN : fieldX (formatXYN op x y n) = x := fieldX_append_byte op (nibble x) _
@[simp] theorem fieldY_formatXYN : fieldY (formatXYN op x y n) = y :=
  fieldY_append_nibbles op (nibble x) (nibble y) (nibble n)
@[simp] theorem fieldN_formatXYN : fieldN (formatXYN op x y n) = n :=
  fieldN_append_nibbles op (nibble x) (nibble y) (nibble n)

end

/-- The two bytes of a word give the word back (20_memory.md R67). -/
theorem bytesOfWord_eq (w : Word) : ∃ hi lo, bytesOfWord w = [hi, lo] ∧ wordOfBytes hi lo = w := by
  refine ⟨_, _, rfl, ?_⟩
  apply BitVec.eq_of_toNat_eq
  have := w.isLt
  simp only [wordOfBytes, toNat_append_eq, BitVec.extractLsb'_toNat]
  simp only [Nat.shiftRight_eq_div_pow]
  omega

/-- A word of two bytes as a number, the first byte the high one (20_memory.md R67). -/
theorem wordOfBytes_toNat (hi lo : Byte) : (wordOfBytes hi lo).toNat = hi.toNat * 256 + lo.toNat :=
  toNat_append_eq hi lo

end Sys2Proof
end

