-- ==== Sys2Proof/Laws/Framebuffer.lean ====
section
/-! SUPPORT. The laws of the screen: what a cell reads after a toggle, and that the shape is kept. -/

namespace Sys2Proof.Machine

/-- A clear screen reads 0 everywhere. -/
@[simp] theorem cellAt_blankScreen (w h row col : Nat) : cellAt (blankScreen w h) row col = false := by
  unfold cellAt blankScreen
  by_cases hr : row < h <;> by_cases hc : col < w <;>
    simp [List.getD_eq_getElem?_getD, hr, hc]

/-- The clear screen has its shape. -/
@[simp] theorem screenShaped_blankScreen (w h : Nat) : screenShaped w h (blankScreen w h) = true := by
  simp [screenShaped, blankScreen]

/-- A toggle keeps the shape. -/
theorem screenShaped_toggleCell (w h : Nat) (fb : Framebuffer) (row col : Nat) (hs : screenShaped w h fb = true) :
    screenShaped w h (toggleCell fb row col) = true := by
  simp only [screenShaped, Bool.and_eq_true, beq_iff_eq, List.all_eq_true] at hs ⊢
  refine ⟨by simpa [toggleCell] using hs.1, fun cells hc => ?_⟩
  obtain ⟨n, hn, rfl⟩ := List.getElem_of_mem hc
  have hlen : n < fb.length := by simpa [toggleCell] using hn
  have hrow := hs.2 fb[n] (List.getElem_mem hlen)
  simp only [toggleCell, List.getElem_modify]
  split <;> simp [hrow]

/-- A cell on a screen of its shape, after a toggle on that screen: negated where it was toggled, as before elsewhere. -/
theorem cellAt_toggleCell (w h : Nat) (fb : Framebuffer) (hs : screenShaped w h fb = true) (row col r c : Nat)
    (hr : row < h) (hc : col < w) :
    cellAt (toggleCell fb row col) r c = (cellAt fb r c ^^ decide (r = row ∧ c = col)) := by
  simp only [screenShaped, Bool.and_eq_true, beq_iff_eq, List.all_eq_true] at hs
  obtain ⟨hlen, hrows⟩ := hs
  have hrow : row < fb.length := by omega
  have hcells : col < fb[row].length := by rw [hrows _ (List.getElem_mem hrow)]; exact hc
  unfold cellAt toggleCell
  simp only [List.getD_eq_getElem?_getD, List.getElem?_modify]
  by_cases h1 : row = r
  · subst h1
    simp only [List.getElem?_eq_getElem hrow, ↓reduceIte, Option.map_eq_map, Option.map_some, Option.getD_some,
      true_and, List.getElem?_modify]
    by_cases h2 : col = c
    · subst h2; simp [List.getElem?_eq_getElem hcells]
    · simp [h2, Ne.symm h2]
  · simp [h1, Ne.symm h1]

theorem screenShaped_blitRow (w h row vx : Nat) (b : Byte) (d : Blit) (count c : Nat)
    (hs : screenShaped w h d.fb = true) : screenShaped w h (blitRow w row vx b d count c).fb = true := by
  induction count generalizing d c with
  | zero => exact hs
  | succ k ih =>
    refine ih _ (c + 1) ?_
    split
    · exact screenShaped_toggleCell w h d.fb row _ hs
    · exact hs

theorem screenShaped_blitRows (w h vx vy : Nat) (d : Blit) (bytes : List Byte) (r : Nat)
    (hs : screenShaped w h d.fb = true) : screenShaped w h (blitRows w h vx vy d bytes r).fb = true := by
  induction bytes generalizing d r with
  | nil => exact hs
  | cons b bs ih => exact ih _ (r + 1) (screenShaped_blitRow w h _ vx b d 8 0 hs)

/-- A sprite keeps the shape. -/
theorem screenShaped_blitSprite (w h vx vy : Nat) (bytes : List Byte) (fb : Framebuffer)
    (hs : screenShaped w h fb = true) : screenShaped w h (blitSprite w h vx vy bytes fb).fb = true :=
  screenShaped_blitRows w h vx vy _ bytes 0 hs

/-- A sprite of no bytes leaves the screen and reports no collision. -/
@[simp] theorem blitSprite_nil (w h vx vy : Nat) (fb : Framebuffer) :
    blitSprite w h vx vy [] fb = { fb := fb, collision := false } := rfl

/-! ## A whole sprite

A sprite toggles the cells of a list, one after the other; the cells of a list differ from each other on every allowed
screen, so each is toggled once and the collisions are read off the screen before. -/

/-- The cells one sprite row toggles, columns `c` to `c + count - 1`. -/
def rowCells (w row vx : Nat) (b : Byte) (count c : Nat) : List (Nat × Nat) :=
  ((List.range' c count).filter (spritePixel b)).map fun k => (row, (vx + k) % w)

/-- The cells a sprite toggles, its rows from row `r` on. -/
def spriteCells (w h vx vy : Nat) (bytes : List Byte) (r : Nat) : List (Nat × Nat) :=
  (bytes.zipIdx r).flatMap fun e => rowCells w ((vy + e.2) % h) vx e.1 8 0

theorem blitRow_eq_foldl (w row vx : Nat) (b : Byte) (d : Blit) (count c : Nat) :
    blitRow w row vx b d count c = (rowCells w row vx b count c).foldl (fun d p => blitCell p.1 p.2 d) d := by
  induction count generalizing d c with
  | zero => rfl
  | succ k ih =>
    simp only [blitRow, ih, rowCells, List.range'_succ, List.filter_cons]
    split <;> rfl

theorem blitRows_eq_foldl (w h vx vy : Nat) (d : Blit) (bytes : List Byte) (r : Nat) :
    blitRows w h vx vy d bytes r = (spriteCells w h vx vy bytes r).foldl (fun d p => blitCell p.1 p.2 d) d := by
  induction bytes generalizing d r with
  | nil => rfl
  | cons b bs ih => simp [blitRows, ih, blitRow_eq_foldl, spriteCells, List.zipIdx_cons, List.foldl_append]

theorem mem_rowCells {w row vx : Nat} {b : Byte} {p : Nat × Nat} :
    p ∈ rowCells w row vx b 8 0 ↔ ∃ c < 8, spritePixel b c = true ∧ p = (row, (vx + c) % w) := by
  simp only [rowCells, List.mem_map, List.mem_filter, List.mem_range'_1]
  constructor
  · rintro ⟨c, ⟨⟨-, h8⟩, hb⟩, rfl⟩
    exact ⟨c, by omega, hb, rfl⟩
  · rintro ⟨c, h8, hb, rfl⟩
    exact ⟨c, ⟨⟨by omega, by omega⟩, hb⟩, rfl⟩

/-- A cell is toggled exactly when a set bit of the sprite lands on it (44_display.md R201, R202). -/
theorem mem_spriteCells {w h vx vy : Nat} {bytes : List Byte} {p : Nat × Nat} :
    p ∈ spriteCells w h vx vy bytes 0 ↔
      ∃ r c, r < bytes.length ∧ c < 8 ∧ spritePixel (bytes.getD r 0) c = true ∧ p = ((vy + r) % h, (vx + c) % w) := by
  simp only [spriteCells, List.mem_flatMap, mem_rowCells, Prod.exists, List.mem_zipIdx_iff_getElem?]
  constructor
  · rintro ⟨b, r, hr, c, hc, hb, rfl⟩
    obtain ⟨hl, rfl⟩ := List.getElem?_eq_some_iff.mp hr
    exact ⟨r, c, hl, hc, by simpa [List.getD_eq_getElem?_getD, hl] using hb, rfl⟩
  · rintro ⟨r, c, hl, hc, hb, rfl⟩
    exact ⟨bytes[r], r, by simp [hl], c, hc, by simpa [List.getD_eq_getElem?_getD, hl] using hb, rfl⟩

/-- Two sums below one modulus apart agree modulo it only when they are equal. -/
theorem add_mod_inj {m v a b : Nat} (ha : a < m) (hb : b < m) (h : (v + a) % m = (v + b) % m) : a = b := by
  have h1 : a ≡ b [MOD m] := Nat.ModEq.add_left_cancel' v h
  rwa [Nat.ModEq, Nat.mod_eq_of_lt ha, Nat.mod_eq_of_lt hb] at h1

theorem nodup_rowCells (w row vx : Nat) (b : Byte) (hw : 8 ≤ w) : (rowCells w row vx b 8 0).Nodup := by
  refine List.Nodup.map_on ?_ (List.Nodup.filter _ List.nodup_range')
  intro a ha c hc h
  simp only [List.mem_filter, List.mem_range'_1] at ha hc
  exact add_mod_inj (by omega) (by omega) (Prod.ext_iff.mp h).2

/-- The cells of a sprite differ from each other. -/
theorem nodup_spriteCells (w h vx vy : Nat) (bytes : List Byte) (r : Nat) (hw : 8 ≤ w) (hh : r + bytes.length ≤ h) :
    (spriteCells w h vx vy bytes r).Nodup := by
  induction bytes generalizing r with
  | nil => simp [spriteCells]
  | cons b bs ih =>
    simp only [List.length_cons] at hh
    simp only [spriteCells, List.zipIdx_cons, List.flatMap_cons]
    refine List.nodup_append'.mpr ⟨nodup_rowCells w _ vx b hw, ih (r + 1) (by omega), ?_⟩
    intro p hp hq
    obtain ⟨c, _, _, hc⟩ := mem_rowCells.mp hp
    obtain ⟨⟨b', r'⟩, hr', hq⟩ := List.mem_flatMap.mp hq
    obtain ⟨c', _, _, hc'⟩ := mem_rowCells.mp hq
    have heq := (Prod.ext_iff.mp (hc.symm.trans hc')).1
    have hbound := List.mem_zipIdx hr'
    have := add_mod_inj (m := h) (v := vy) (by omega) (by omega) heq
    omega

/-- A list of different cells of the screen, toggled one after the other: the listed cells are negated and no others, and
there is a collision exactly when one of them was 1 before. -/
theorem foldl_blitCell (w h : Nat) (cells : List (Nat × Nat)) (d : Blit) (hs : screenShaped w h d.fb = true)
    (hin : ∀ p ∈ cells, p.1 < h ∧ p.2 < w) (hnd : cells.Nodup) :
    (∀ r c, cellAt (cells.foldl (fun d p => blitCell p.1 p.2 d) d).fb r c =
      (cellAt d.fb r c ^^ decide ((r, c) ∈ cells))) ∧
    (cells.foldl (fun d p => blitCell p.1 p.2 d) d).collision =
      (d.collision || cells.any fun p => cellAt d.fb p.1 p.2) := by
  induction cells generalizing d with
  | nil => simp
  | cons p ps ih =>
    obtain ⟨hp, hps⟩ := List.nodup_cons.mp hnd
    obtain ⟨hrow, hcol⟩ := hin p (by simp)
    have hread := cellAt_toggleCell w h d.fb hs p.1 p.2
    have hsh : screenShaped w h (blitCell p.1 p.2 d).fb = true := screenShaped_toggleCell w h d.fb p.1 p.2 hs
    obtain ⟨h1, h2⟩ := ih (blitCell p.1 p.2 d) hsh (fun q hq => hin q (by simp [hq])) hps
    simp only [List.foldl_cons]
    refine ⟨fun r c => ?_, ?_⟩
    · rw [h1]
      simp only [blitCell, hread r c hrow hcol, List.mem_cons]
      by_cases he : (r, c) = p
      · subst he; simp [hp]
      · have : ¬ (r = p.1 ∧ c = p.2) := fun hh => he (Prod.ext hh.1 hh.2)
        simp [he, this]
    · rw [h2]
      have hold : (ps.any fun q => cellAt (blitCell p.1 p.2 d).fb q.1 q.2) = ps.any fun q => cellAt d.fb q.1 q.2 := by
        rw [Bool.eq_iff_iff, List.any_eq_true, List.any_eq_true]
        have hq : ∀ q ∈ ps, cellAt (blitCell p.1 p.2 d).fb q.1 q.2 = cellAt d.fb q.1 q.2 := fun q hq => by
          have : ¬ (q.1 = p.1 ∧ q.2 = p.2) := fun hh => hp (Prod.ext hh.1 hh.2 ▸ hq)
          simp [blitCell, hread q.1 q.2 hrow hcol, this]
        constructor <;> rintro ⟨q, hm, hc⟩ <;> exact ⟨q, hm, by simpa [hq q hm] using hc⟩
      rw [hold]
      simp [blitCell, Bool.or_assoc, Bool.or_comm]

/-- Everything a sprite does to a screen of its shape, where the sprite has no more rows than the screen: the cells of
`spriteCells` are negated and no others, and the flag says whether one of them was 1 before (44_display.md R203, R204). -/
theorem blitSprite_eq (w h vx vy : Nat) (bytes : List Byte) (fb : Framebuffer) (hs : screenShaped w h fb = true)
    (hw : 8 ≤ w) (hh : bytes.length ≤ h) (hpos : 0 < h) :
    (∀ r c, cellAt (blitSprite w h vx vy bytes fb).fb r c =
      (cellAt fb r c ^^ decide ((r, c) ∈ spriteCells w h vx vy bytes 0))) ∧
    (blitSprite w h vx vy bytes fb).collision =
      (spriteCells w h vx vy bytes 0).any fun p => cellAt fb p.1 p.2 := by
  have key := foldl_blitCell w h (spriteCells w h vx vy bytes 0) { fb := fb, collision := false } hs ?_
    (nodup_spriteCells w h vx vy bytes 0 hw (by omega))
  · unfold blitSprite
    rw [blitRows_eq_foldl]
    simpa using key
  · intro p hp
    obtain ⟨r, c, -, -, -, rfl⟩ := mem_spriteCells.mp hp
    exact ⟨Nat.mod_lt _ hpos, Nat.mod_lt _ (by omega)⟩

/-- Two screens of one shape with the same cells are the same screen. -/
theorem Framebuffer.ext_of_cells (w h : Nat) (fb gb : Framebuffer) (hf : screenShaped w h fb = true)
    (hg : screenShaped w h gb = true) (heq : ∀ r c, r < h → c < w → cellAt fb r c = cellAt gb r c) : fb = gb := by
  simp only [screenShaped, Bool.and_eq_true, beq_iff_eq, List.all_eq_true] at hf hg
  refine List.ext_getElem (by omega) fun r hr hr' => ?_
  have h1 := hf.2 _ (List.getElem_mem hr)
  have h2 := hg.2 _ (List.getElem_mem hr')
  refine List.ext_getElem (by omega) fun c hc hc' => ?_
  have := heq r c (by omega) (by omega)
  simpa [cellAt, List.getD_eq_getElem?_getD, hr, hr', hc, hc'] using this

end Sys2Proof.Machine
end

