-- ==== Sys2Proof/Laws/Memory.lean ====
section
/-! SUPPORT. The laws of memory: a read after a write, and that every operation keeps the canonical form. -/

namespace Sys2Proof.Machine

section
variable (p : Params)

/-! ## Reads after writes -/

theorem Memory.find_insert (m : Memory) (a : Nat) (b : Byte) (x : Nat) :
    (m.insert a b).find x = if x = a then some b else m.find x := by
  induction m with
  | nil => simp [Memory.insert, Memory.find, eq_comm]
  | cons e rest ih =>
    obtain ⟨k, c⟩ := e
    simp only [Memory.insert]
    split
    · simp only [Memory.find, eq_comm]
    · split
      · rename_i h; subst h
        by_cases hx : x = a
        · simp [Memory.find, hx]
        · simp [Memory.find, hx, Ne.symm hx]
      · rename_i h1 h2
        simp only [Memory.find, ih]
        by_cases hk : k = x
        · subst hk; simp [Ne.symm h2]
        · simp [hk]

theorem Memory.find_erase (m : Memory) (a x : Nat) : (m.erase a).find x = if x = a then none else m.find x := by
  induction m with
  | nil => simp [Memory.erase, Memory.find]
  | cons e rest ih =>
    obtain ⟨k, c⟩ := e
    simp only [Memory.erase]
    split
    · rename_i h; subst h
      by_cases hx : x = k
      · subst hx; simpa using ih
      · simp [Memory.find, ih, hx, Ne.symm hx]
    · rename_i h
      by_cases hk : k = x
      · subst hk; simp [Memory.find, h]
      · simp [Memory.find, hk, ih]

/-- A read after a write: the byte written at its own address, the old byte everywhere else. -/
theorem Memory.read_write (m : Memory) (a : Nat) (b : Byte) (x : Nat) :
    (m.write p a b).read p x = if x = a then b else m.read p x := by
  by_cases hx : x = a
  · subst hx
    by_cases hb : b = resetByte p x <;> simp [Memory.write, Memory.read, hb, Memory.find_insert, Memory.find_erase]
  · by_cases hb : b = resetByte p a <;>
      simp [Memory.write, Memory.read, hb, hx, Memory.find_insert, Memory.find_erase]

/-- A read after a block write: the byte of the list inside the block, the old byte outside. -/
theorem Memory.read_writeBytes (m : Memory) (a : Nat) (bs : List Byte) (x : Nat) :
    (m.writeBytes p a bs).read p x = if a ≤ x ∧ x < a + bs.length then bs.getD (x - a) 0 else m.read p x := by
  induction bs generalizing m a with
  | nil =>
    have h : ¬ (a ≤ x ∧ x < a) := by omega
    simp [Memory.writeBytes]
  | cons b bs ih =>
    simp only [Memory.writeBytes, ih, Memory.read_write, List.length_cons]
    by_cases hx : x = a
    · subst hx; simp
    · by_cases hin : a + 1 ≤ x ∧ x < a + 1 + bs.length
      · have h2 : a ≤ x ∧ x < a + (bs.length + 1) := by omega
        obtain ⟨d, rfl⟩ : ∃ d, x = a + 1 + d := ⟨x - (a + 1), by omega⟩
        have e : a + 1 + d - a = d + 1 := by omega
        simp [hin, h2, e]
      · have h2 : ¬ (a ≤ x ∧ x < a + (bs.length + 1)) := by omega
        simp only [hin, h2, hx, if_false]

/-- A byte of the state after a block store. -/
theorem State.byteAt_storeBytes (s : State) (a : Nat) (bs : List Byte) (x : Nat) :
    (s.storeBytes a bs).byteAt x = if a ≤ x ∧ x < a + bs.length then bs.getD (x - a) 0 else s.byteAt x :=
  Memory.read_writeBytes s.params s.mem a bs x

/-! ## The canonical form -/

theorem Memory.wfFrom_mono (m : Memory) {lo hi : Nat} (h : lo ≤ hi) (hm : Memory.wfFrom p hi m = true) :
    Memory.wfFrom p lo m = true := by
  cases m with
  | nil => rfl
  | cons e rest =>
    obtain ⟨k, c⟩ := e
    simp only [Memory.wfFrom, Bool.and_eq_true, decide_eq_true_eq] at hm ⊢
    exact ⟨⟨⟨by omega, hm.1.1.2⟩, hm.1.2⟩, hm.2⟩

theorem Memory.wfFrom_insert (m : Memory) (a : Nat) (b : Byte) (lo : Nat) (hm : Memory.wfFrom p lo m = true)
    (hlo : lo ≤ a) (ha : a < 4096) (hb : b ≠ resetByte p a) : Memory.wfFrom p lo (m.insert a b) = true := by
  induction m generalizing lo with
  | nil => simp [Memory.insert, Memory.wfFrom, hlo, ha, hb]
  | cons e rest ih =>
    obtain ⟨k, c⟩ := e
    simp only [Memory.wfFrom, Bool.and_eq_true, decide_eq_true_eq] at hm
    obtain ⟨⟨⟨h1, h2⟩, h3⟩, h4⟩ := hm
    simp only [Memory.insert]
    split
    · rename_i hlt
      simp only [Memory.wfFrom, Bool.and_eq_true, decide_eq_true_eq] at *
      exact ⟨⟨⟨hlo, ha⟩, hb⟩, ⟨⟨⟨hlt, h2⟩, h3⟩, h4⟩⟩
    · split
      · rename_i _ heq; subst heq
        simp only [Memory.wfFrom, Bool.and_eq_true, decide_eq_true_eq] at *
        exact ⟨⟨⟨hlo, ha⟩, hb⟩, h4⟩
      · rename_i hlt hne
        simp only [Memory.wfFrom, Bool.and_eq_true, decide_eq_true_eq]
        exact ⟨⟨⟨h1, h2⟩, h3⟩, ih (k + 1) h4 (by omega)⟩

theorem Memory.wfFrom_erase (m : Memory) (a lo : Nat) (hm : Memory.wfFrom p lo m = true) :
    Memory.wfFrom p lo (m.erase a) = true := by
  induction m generalizing lo with
  | nil => rfl
  | cons e rest ih =>
    obtain ⟨k, c⟩ := e
    simp only [Memory.wfFrom, Bool.and_eq_true, decide_eq_true_eq] at hm
    obtain ⟨⟨⟨h1, h2⟩, h3⟩, h4⟩ := hm
    simp only [Memory.erase]
    split
    · exact ih lo (Memory.wfFrom_mono p rest (by omega) h4)
    · simp only [Memory.wfFrom, Bool.and_eq_true, decide_eq_true_eq]
      exact ⟨⟨⟨h1, h2⟩, h3⟩, ih (k + 1) h4⟩

/-- A write in range keeps the canonical form. -/
theorem Memory.wf_write (m : Memory) (a : Nat) (b : Byte) (ha : a < 4096) (hm : m.wf p = true) :
    (m.write p a b).wf p = true := by
  unfold Memory.write
  split
  · exact Memory.wfFrom_erase p m a 0 hm
  · exact Memory.wfFrom_insert p m a b 0 hm (Nat.zero_le a) ha ‹_›

/-- A block write in range keeps the canonical form. -/
theorem Memory.wf_writeBytes (m : Memory) (a : Nat) (bs : List Byte) (h : a + bs.length ≤ 4096)
    (hm : m.wf p = true) : (m.writeBytes p a bs).wf p = true := by
  induction bs generalizing m a with
  | nil => exact hm
  | cons b bs ih =>
    simp only [List.length_cons] at h
    exact ih (m.write p a b) (a + 1) (by omega) (Memory.wf_write p m a b (by omega) hm)

/-- The memory of the state after reset has the canonical form, whatever the parameters. -/
theorem Memory.wf_resetWith : (State.resetWith p).mem.wf p = true := rfl

/-- A byte of memory after reset (10_state.md R41). -/
theorem State.byteAt_resetWith (a : Nat) : (State.resetWith p).byteAt a = resetByte p a := rfl

end

/-- A memory in canonical form lists nothing below its lower bound. -/
theorem Memory.find_eq_none_of_wfFrom (p : Params) (m : Memory) {lo x : Nat} (hm : Memory.wfFrom p lo m = true)
    (hx : x < lo) : m.find x = none := by
  induction m generalizing lo with
  | nil => rfl
  | cons e rest ih =>
    obtain ⟨k, c⟩ := e
    simp only [Memory.wfFrom, Bool.and_eq_true, decide_eq_true_eq] at hm
    have hk : k ≠ x := by omega
    simp only [Memory.find, hk, if_false]
    exact ih hm.2 (by omega)

end Sys2Proof.Machine
end

