-- ==== Sys2Proof/Laws/State.lean ====
section
/-! SUPPORT. One lemma per field per update of State, and the accessors over every update: all true by rfl, so that no
proof unfolds a record update. -/

namespace Sys2Proof.Machine

section
variable (s : State)

/-! ## Derived updates in terms of the base ones -/

@[simp] theorem State.advance_eq : s.advance = s.goto (s.pc + 2) := rfl
@[simp] theorem State.skipIf_eq (c : Bool) : s.skipIf c = s.goto (if c then s.pc + 4 else s.pc + 2) := rfl
@[simp] theorem State.setWithFlag_eq (x : Reg) (a f : Byte) : s.setWithFlag x a f = (s.setV x a).setV VF f := rfl

/-! ## Fields -/

@[simp] theorem State.setV_v (r : Reg) (b : Byte) : (s.setV r b).v = s.v.set r.val b r.isLt := rfl
@[simp] theorem State.setV_i (r : Reg) (b : Byte) : (s.setV r b).i = s.i := rfl
@[simp] theorem State.setV_pc (r : Reg) (b : Byte) : (s.setV r b).pc = s.pc := rfl
@[simp] theorem State.setV_stack (r : Reg) (b : Byte) : (s.setV r b).stack = s.stack := rfl
@[simp] theorem State.setV_sp (r : Reg) (b : Byte) : (s.setV r b).sp = s.sp := rfl
@[simp] theorem State.setV_dt (r : Reg) (b : Byte) : (s.setV r b).dt = s.dt := rfl
@[simp] theorem State.setV_st (r : Reg) (b : Byte) : (s.setV r b).st = s.st := rfl
@[simp] theorem State.setV_held (r : Reg) (b : Byte) : (s.setV r b).held = s.held := rfl
@[simp] theorem State.setV_edge (r : Reg) (b : Byte) : (s.setV r b).edge = s.edge := rfl
@[simp] theorem State.setV_fb (r : Reg) (b : Byte) : (s.setV r b).fb = s.fb := rfl
@[simp] theorem State.setV_mem (r : Reg) (b : Byte) : (s.setV r b).mem = s.mem := rfl
@[simp] theorem State.setV_params (r : Reg) (b : Byte) : (s.setV r b).params = s.params := rfl
@[simp] theorem State.setV_draws (r : Reg) (b : Byte) : (s.setV r b).draws = s.draws := rfl
@[simp] theorem State.setV_script (r : Reg) (b : Byte) : (s.setV r b).script = s.script := rfl
@[simp] theorem State.setV_afterReset (r : Reg) (b : Byte) : (s.setV r b).afterReset = s.afterReset := rfl

@[simp] theorem State.setI_v (w : Word) : (s.setI w).v = s.v := rfl
@[simp] theorem State.setI_i (w : Word) : (s.setI w).i = w := rfl
@[simp] theorem State.setI_pc (w : Word) : (s.setI w).pc = s.pc := rfl
@[simp] theorem State.setI_stack (w : Word) : (s.setI w).stack = s.stack := rfl
@[simp] theorem State.setI_sp (w : Word) : (s.setI w).sp = s.sp := rfl
@[simp] theorem State.setI_dt (w : Word) : (s.setI w).dt = s.dt := rfl
@[simp] theorem State.setI_st (w : Word) : (s.setI w).st = s.st := rfl
@[simp] theorem State.setI_held (w : Word) : (s.setI w).held = s.held := rfl
@[simp] theorem State.setI_edge (w : Word) : (s.setI w).edge = s.edge := rfl
@[simp] theorem State.setI_fb (w : Word) : (s.setI w).fb = s.fb := rfl
@[simp] theorem State.setI_mem (w : Word) : (s.setI w).mem = s.mem := rfl
@[simp] theorem State.setI_params (w : Word) : (s.setI w).params = s.params := rfl
@[simp] theorem State.setI_draws (w : Word) : (s.setI w).draws = s.draws := rfl
@[simp] theorem State.setI_script (w : Word) : (s.setI w).script = s.script := rfl
@[simp] theorem State.setI_afterReset (w : Word) : (s.setI w).afterReset = s.afterReset := rfl

@[simp] theorem State.goto_v (w : Word) : (s.goto w).v = s.v := rfl
@[simp] theorem State.goto_i (w : Word) : (s.goto w).i = s.i := rfl
@[simp] theorem State.goto_pc (w : Word) : (s.goto w).pc = w := rfl
@[simp] theorem State.goto_stack (w : Word) : (s.goto w).stack = s.stack := rfl
@[simp] theorem State.goto_sp (w : Word) : (s.goto w).sp = s.sp := rfl
@[simp] theorem State.goto_dt (w : Word) : (s.goto w).dt = s.dt := rfl
@[simp] theorem State.goto_st (w : Word) : (s.goto w).st = s.st := rfl
@[simp] theorem State.goto_held (w : Word) : (s.goto w).held = s.held := rfl
@[simp] theorem State.goto_edge (w : Word) : (s.goto w).edge = s.edge := rfl
@[simp] theorem State.goto_fb (w : Word) : (s.goto w).fb = s.fb := rfl
@[simp] theorem State.goto_mem (w : Word) : (s.goto w).mem = s.mem := rfl
@[simp] theorem State.goto_params (w : Word) : (s.goto w).params = s.params := rfl
@[simp] theorem State.goto_draws (w : Word) : (s.goto w).draws = s.draws := rfl
@[simp] theorem State.goto_script (w : Word) : (s.goto w).script = s.script := rfl
@[simp] theorem State.goto_afterReset (w : Word) : (s.goto w).afterReset = s.afterReset := rfl

@[simp] theorem State.setDt_v (b : Byte) : (s.setDt b).v = s.v := rfl
@[simp] theorem State.setDt_i (b : Byte) : (s.setDt b).i = s.i := rfl
@[simp] theorem State.setDt_pc (b : Byte) : (s.setDt b).pc = s.pc := rfl
@[simp] theorem State.setDt_stack (b : Byte) : (s.setDt b).stack = s.stack := rfl
@[simp] theorem State.setDt_sp (b : Byte) : (s.setDt b).sp = s.sp := rfl
@[simp] theorem State.setDt_dt (b : Byte) : (s.setDt b).dt = b := rfl
@[simp] theorem State.setDt_st (b : Byte) : (s.setDt b).st = s.st := rfl
@[simp] theorem State.setDt_held (b : Byte) : (s.setDt b).held = s.held := rfl
@[simp] theorem State.setDt_edge (b : Byte) : (s.setDt b).edge = s.edge := rfl
@[simp] theorem State.setDt_fb (b : Byte) : (s.setDt b).fb = s.fb := rfl
@[simp] theorem State.setDt_mem (b : Byte) : (s.setDt b).mem = s.mem := rfl
@[simp] theorem State.setDt_params (b : Byte) : (s.setDt b).params = s.params := rfl
@[simp] theorem State.setDt_draws (b : Byte) : (s.setDt b).draws = s.draws := rfl
@[simp] theorem State.setDt_script (b : Byte) : (s.setDt b).script = s.script := rfl
@[simp] theorem State.setDt_afterReset (b : Byte) : (s.setDt b).afterReset = s.afterReset := rfl

@[simp] theorem State.setSt_v (b : Byte) : (s.setSt b).v = s.v := rfl
@[simp] theorem State.setSt_i (b : Byte) : (s.setSt b).i = s.i := rfl
@[simp] theorem State.setSt_pc (b : Byte) : (s.setSt b).pc = s.pc := rfl
@[simp] theorem State.setSt_stack (b : Byte) : (s.setSt b).stack = s.stack := rfl
@[simp] theorem State.setSt_sp (b : Byte) : (s.setSt b).sp = s.sp := rfl
@[simp] theorem State.setSt_dt (b : Byte) : (s.setSt b).dt = s.dt := rfl
@[simp] theorem State.setSt_st (b : Byte) : (s.setSt b).st = b := rfl
@[simp] theorem State.setSt_held (b : Byte) : (s.setSt b).held = s.held := rfl
@[simp] theorem State.setSt_edge (b : Byte) : (s.setSt b).edge = s.edge := rfl
@[simp] theorem State.setSt_fb (b : Byte) : (s.setSt b).fb = s.fb := rfl
@[simp] theorem State.setSt_mem (b : Byte) : (s.setSt b).mem = s.mem := rfl
@[simp] theorem State.setSt_params (b : Byte) : (s.setSt b).params = s.params := rfl
@[simp] theorem State.setSt_draws (b : Byte) : (s.setSt b).draws = s.draws := rfl
@[simp] theorem State.setSt_script (b : Byte) : (s.setSt b).script = s.script := rfl
@[simp] theorem State.setSt_afterReset (b : Byte) : (s.setSt b).afterReset = s.afterReset := rfl

@[simp] theorem State.setHeld_v (k : Key) (b : Bool) : (s.setHeld k b).v = s.v := rfl
@[simp] theorem State.setHeld_i (k : Key) (b : Bool) : (s.setHeld k b).i = s.i := rfl
@[simp] theorem State.setHeld_pc (k : Key) (b : Bool) : (s.setHeld k b).pc = s.pc := rfl
@[simp] theorem State.setHeld_stack (k : Key) (b : Bool) : (s.setHeld k b).stack = s.stack := rfl
@[simp] theorem State.setHeld_sp (k : Key) (b : Bool) : (s.setHeld k b).sp = s.sp := rfl
@[simp] theorem State.setHeld_dt (k : Key) (b : Bool) : (s.setHeld k b).dt = s.dt := rfl
@[simp] theorem State.setHeld_st (k : Key) (b : Bool) : (s.setHeld k b).st = s.st := rfl
@[simp] theorem State.setHeld_held (k : Key) (b : Bool) : (s.setHeld k b).held = s.held.set k.val b k.isLt := rfl
@[simp] theorem State.setHeld_edge (k : Key) (b : Bool) : (s.setHeld k b).edge = s.edge := rfl
@[simp] theorem State.setHeld_fb (k : Key) (b : Bool) : (s.setHeld k b).fb = s.fb := rfl
@[simp] theorem State.setHeld_mem (k : Key) (b : Bool) : (s.setHeld k b).mem = s.mem := rfl
@[simp] theorem State.setHeld_params (k : Key) (b : Bool) : (s.setHeld k b).params = s.params := rfl
@[simp] theorem State.setHeld_draws (k : Key) (b : Bool) : (s.setHeld k b).draws = s.draws := rfl
@[simp] theorem State.setHeld_script (k : Key) (b : Bool) : (s.setHeld k b).script = s.script := rfl
@[simp] theorem State.setHeld_afterReset (k : Key) (b : Bool) : (s.setHeld k b).afterReset = s.afterReset := rfl

@[simp] theorem State.setEdge_v (e : Option Key) : (s.setEdge e).v = s.v := rfl
@[simp] theorem State.setEdge_i (e : Option Key) : (s.setEdge e).i = s.i := rfl
@[simp] theorem State.setEdge_pc (e : Option Key) : (s.setEdge e).pc = s.pc := rfl
@[simp] theorem State.setEdge_stack (e : Option Key) : (s.setEdge e).stack = s.stack := rfl
@[simp] theorem State.setEdge_sp (e : Option Key) : (s.setEdge e).sp = s.sp := rfl
@[simp] theorem State.setEdge_dt (e : Option Key) : (s.setEdge e).dt = s.dt := rfl
@[simp] theorem State.setEdge_st (e : Option Key) : (s.setEdge e).st = s.st := rfl
@[simp] theorem State.setEdge_held (e : Option Key) : (s.setEdge e).held = s.held := rfl
@[simp] theorem State.setEdge_edge (e : Option Key) : (s.setEdge e).edge = e := rfl
@[simp] theorem State.setEdge_fb (e : Option Key) : (s.setEdge e).fb = s.fb := rfl
@[simp] theorem State.setEdge_mem (e : Option Key) : (s.setEdge e).mem = s.mem := rfl
@[simp] theorem State.setEdge_params (e : Option Key) : (s.setEdge e).params = s.params := rfl
@[simp] theorem State.setEdge_draws (e : Option Key) : (s.setEdge e).draws = s.draws := rfl
@[simp] theorem State.setEdge_script (e : Option Key) : (s.setEdge e).script = s.script := rfl
@[simp] theorem State.setEdge_afterReset (e : Option Key) : (s.setEdge e).afterReset = s.afterReset := rfl

@[simp] theorem State.storeBytes_v (a : Nat) (bs : List Byte) : (s.storeBytes a bs).v = s.v := rfl
@[simp] theorem State.storeBytes_i (a : Nat) (bs : List Byte) : (s.storeBytes a bs).i = s.i := rfl
@[simp] theorem State.storeBytes_pc (a : Nat) (bs : List Byte) : (s.storeBytes a bs).pc = s.pc := rfl
@[simp] theorem State.storeBytes_stack (a : Nat) (bs : List Byte) : (s.storeBytes a bs).stack = s.stack := rfl
@[simp] theorem State.storeBytes_sp (a : Nat) (bs : List Byte) : (s.storeBytes a bs).sp = s.sp := rfl
@[simp] theorem State.storeBytes_dt (a : Nat) (bs : List Byte) : (s.storeBytes a bs).dt = s.dt := rfl
@[simp] theorem State.storeBytes_st (a : Nat) (bs : List Byte) : (s.storeBytes a bs).st = s.st := rfl
@[simp] theorem State.storeBytes_held (a : Nat) (bs : List Byte) : (s.storeBytes a bs).held = s.held := rfl
@[simp] theorem State.storeBytes_edge (a : Nat) (bs : List Byte) : (s.storeBytes a bs).edge = s.edge := rfl
@[simp] theorem State.storeBytes_fb (a : Nat) (bs : List Byte) : (s.storeBytes a bs).fb = s.fb := rfl
@[simp] theorem State.storeBytes_mem (a : Nat) (bs : List Byte) : (s.storeBytes a bs).mem = s.mem.writeBytes s.params a bs := rfl
@[simp] theorem State.storeBytes_params (a : Nat) (bs : List Byte) : (s.storeBytes a bs).params = s.params := rfl
@[simp] theorem State.storeBytes_draws (a : Nat) (bs : List Byte) : (s.storeBytes a bs).draws = s.draws := rfl
@[simp] theorem State.storeBytes_script (a : Nat) (bs : List Byte) : (s.storeBytes a bs).script = s.script := rfl
@[simp] theorem State.storeBytes_afterReset (a : Nat) (bs : List Byte) : (s.storeBytes a bs).afterReset = s.afterReset := rfl

@[simp] theorem State.setFb_v (fb : Framebuffer) : (s.setFb fb).v = s.v := rfl
@[simp] theorem State.setFb_i (fb : Framebuffer) : (s.setFb fb).i = s.i := rfl
@[simp] theorem State.setFb_pc (fb : Framebuffer) : (s.setFb fb).pc = s.pc := rfl
@[simp] theorem State.setFb_stack (fb : Framebuffer) : (s.setFb fb).stack = s.stack := rfl
@[simp] theorem State.setFb_sp (fb : Framebuffer) : (s.setFb fb).sp = s.sp := rfl
@[simp] theorem State.setFb_dt (fb : Framebuffer) : (s.setFb fb).dt = s.dt := rfl
@[simp] theorem State.setFb_st (fb : Framebuffer) : (s.setFb fb).st = s.st := rfl
@[simp] theorem State.setFb_held (fb : Framebuffer) : (s.setFb fb).held = s.held := rfl
@[simp] theorem State.setFb_edge (fb : Framebuffer) : (s.setFb fb).edge = s.edge := rfl
@[simp] theorem State.setFb_fb (fb : Framebuffer) : (s.setFb fb).fb = fb := rfl
@[simp] theorem State.setFb_mem (fb : Framebuffer) : (s.setFb fb).mem = s.mem := rfl
@[simp] theorem State.setFb_params (fb : Framebuffer) : (s.setFb fb).params = s.params := rfl
@[simp] theorem State.setFb_draws (fb : Framebuffer) : (s.setFb fb).draws = s.draws := rfl
@[simp] theorem State.setFb_script (fb : Framebuffer) : (s.setFb fb).script = s.script := rfl
@[simp] theorem State.setFb_afterReset (fb : Framebuffer) : (s.setFb fb).afterReset = s.afterReset := rfl

@[simp] theorem State.drawn_v : s.drawn.v = s.v := rfl
@[simp] theorem State.drawn_i : s.drawn.i = s.i := rfl
@[simp] theorem State.drawn_pc : s.drawn.pc = s.pc := rfl
@[simp] theorem State.drawn_stack : s.drawn.stack = s.stack := rfl
@[simp] theorem State.drawn_sp : s.drawn.sp = s.sp := rfl
@[simp] theorem State.drawn_dt : s.drawn.dt = s.dt := rfl
@[simp] theorem State.drawn_st : s.drawn.st = s.st := rfl
@[simp] theorem State.drawn_held : s.drawn.held = s.held := rfl
@[simp] theorem State.drawn_edge : s.drawn.edge = s.edge := rfl
@[simp] theorem State.drawn_fb : s.drawn.fb = s.fb := rfl
@[simp] theorem State.drawn_mem : s.drawn.mem = s.mem := rfl
@[simp] theorem State.drawn_params : s.drawn.params = s.params := rfl
@[simp] theorem State.drawn_draws : s.drawn.draws = s.draws + 1 := rfl
@[simp] theorem State.drawn_script : s.drawn.script = s.script := rfl
@[simp] theorem State.drawn_afterReset : s.drawn.afterReset = s.afterReset := rfl

@[simp] theorem State.setRegs_v (v : Vector Byte 16) : (s.setRegs v).v = v := rfl
@[simp] theorem State.setRegs_i (v : Vector Byte 16) : (s.setRegs v).i = s.i := rfl
@[simp] theorem State.setRegs_pc (v : Vector Byte 16) : (s.setRegs v).pc = s.pc := rfl
@[simp] theorem State.setRegs_stack (v : Vector Byte 16) : (s.setRegs v).stack = s.stack := rfl
@[simp] theorem State.setRegs_sp (v : Vector Byte 16) : (s.setRegs v).sp = s.sp := rfl
@[simp] theorem State.setRegs_dt (v : Vector Byte 16) : (s.setRegs v).dt = s.dt := rfl
@[simp] theorem State.setRegs_st (v : Vector Byte 16) : (s.setRegs v).st = s.st := rfl
@[simp] theorem State.setRegs_held (v : Vector Byte 16) : (s.setRegs v).held = s.held := rfl
@[simp] theorem State.setRegs_edge (v : Vector Byte 16) : (s.setRegs v).edge = s.edge := rfl
@[simp] theorem State.setRegs_fb (v : Vector Byte 16) : (s.setRegs v).fb = s.fb := rfl
@[simp] theorem State.setRegs_mem (v : Vector Byte 16) : (s.setRegs v).mem = s.mem := rfl
@[simp] theorem State.setRegs_params (v : Vector Byte 16) : (s.setRegs v).params = s.params := rfl
@[simp] theorem State.setRegs_draws (v : Vector Byte 16) : (s.setRegs v).draws = s.draws := rfl
@[simp] theorem State.setRegs_script (v : Vector Byte 16) : (s.setRegs v).script = s.script := rfl
@[simp] theorem State.setRegs_afterReset (v : Vector Byte 16) : (s.setRegs v).afterReset = s.afterReset := rfl

@[simp] theorem State.setEntry_v (k : Fin 16) (w : Word) : (s.setEntry k w).v = s.v := rfl
@[simp] theorem State.setEntry_i (k : Fin 16) (w : Word) : (s.setEntry k w).i = s.i := rfl
@[simp] theorem State.setEntry_pc (k : Fin 16) (w : Word) : (s.setEntry k w).pc = s.pc := rfl
@[simp] theorem State.setEntry_stack (k : Fin 16) (w : Word) : (s.setEntry k w).stack = s.stack.set k.val w k.isLt := rfl
@[simp] theorem State.setEntry_sp (k : Fin 16) (w : Word) : (s.setEntry k w).sp = s.sp := rfl
@[simp] theorem State.setEntry_dt (k : Fin 16) (w : Word) : (s.setEntry k w).dt = s.dt := rfl
@[simp] theorem State.setEntry_st (k : Fin 16) (w : Word) : (s.setEntry k w).st = s.st := rfl
@[simp] theorem State.setEntry_held (k : Fin 16) (w : Word) : (s.setEntry k w).held = s.held := rfl
@[simp] theorem State.setEntry_edge (k : Fin 16) (w : Word) : (s.setEntry k w).edge = s.edge := rfl
@[simp] theorem State.setEntry_fb (k : Fin 16) (w : Word) : (s.setEntry k w).fb = s.fb := rfl
@[simp] theorem State.setEntry_mem (k : Fin 16) (w : Word) : (s.setEntry k w).mem = s.mem := rfl
@[simp] theorem State.setEntry_params (k : Fin 16) (w : Word) : (s.setEntry k w).params = s.params := rfl
@[simp] theorem State.setEntry_draws (k : Fin 16) (w : Word) : (s.setEntry k w).draws = s.draws := rfl
@[simp] theorem State.setEntry_script (k : Fin 16) (w : Word) : (s.setEntry k w).script = s.script := rfl
@[simp] theorem State.setEntry_afterReset (k : Fin 16) (w : Word) : (s.setEntry k w).afterReset = s.afterReset := rfl

@[simp] theorem State.setSp_v (n : Fin 17) : (s.setSp n).v = s.v := rfl
@[simp] theorem State.setSp_i (n : Fin 17) : (s.setSp n).i = s.i := rfl
@[simp] theorem State.setSp_pc (n : Fin 17) : (s.setSp n).pc = s.pc := rfl
@[simp] theorem State.setSp_stack (n : Fin 17) : (s.setSp n).stack = s.stack := rfl
@[simp] theorem State.setSp_sp (n : Fin 17) : (s.setSp n).sp = n := rfl
@[simp] theorem State.setSp_dt (n : Fin 17) : (s.setSp n).dt = s.dt := rfl
@[simp] theorem State.setSp_st (n : Fin 17) : (s.setSp n).st = s.st := rfl
@[simp] theorem State.setSp_held (n : Fin 17) : (s.setSp n).held = s.held := rfl
@[simp] theorem State.setSp_edge (n : Fin 17) : (s.setSp n).edge = s.edge := rfl
@[simp] theorem State.setSp_fb (n : Fin 17) : (s.setSp n).fb = s.fb := rfl
@[simp] theorem State.setSp_mem (n : Fin 17) : (s.setSp n).mem = s.mem := rfl
@[simp] theorem State.setSp_params (n : Fin 17) : (s.setSp n).params = s.params := rfl
@[simp] theorem State.setSp_draws (n : Fin 17) : (s.setSp n).draws = s.draws := rfl
@[simp] theorem State.setSp_script (n : Fin 17) : (s.setSp n).script = s.script := rfl
@[simp] theorem State.setSp_afterReset (n : Fin 17) : (s.setSp n).afterReset = s.afterReset := rfl

/-! ## Accessors over the updates that do not concern them -/

@[simp] theorem State.getV_setI (w : Word) (q : Reg) : (s.setI w).getV q = s.getV q := rfl
@[simp] theorem State.getV_goto (w : Word) (q : Reg) : (s.goto w).getV q = s.getV q := rfl
@[simp] theorem State.getV_setDt (b : Byte) (q : Reg) : (s.setDt b).getV q = s.getV q := rfl
@[simp] theorem State.getV_setSt (b : Byte) (q : Reg) : (s.setSt b).getV q = s.getV q := rfl
@[simp] theorem State.getV_setHeld (k : Key) (b : Bool) (q : Reg) : (s.setHeld k b).getV q = s.getV q := rfl
@[simp] theorem State.getV_setEdge (e : Option Key) (q : Reg) : (s.setEdge e).getV q = s.getV q := rfl
@[simp] theorem State.getV_storeBytes (a : Nat) (bs : List Byte) (q : Reg) : (s.storeBytes a bs).getV q = s.getV q := rfl
@[simp] theorem State.getV_setFb (fb : Framebuffer) (q : Reg) : (s.setFb fb).getV q = s.getV q := rfl
@[simp] theorem State.getV_drawn (q : Reg) : s.drawn.getV q = s.getV q := rfl

@[simp] theorem State.isHeld_setV (r : Reg) (b : Byte) (q : Key) : (s.setV r b).isHeld q = s.isHeld q := rfl
@[simp] theorem State.isHeld_setI (w : Word) (q : Key) : (s.setI w).isHeld q = s.isHeld q := rfl
@[simp] theorem State.isHeld_goto (w : Word) (q : Key) : (s.goto w).isHeld q = s.isHeld q := rfl
@[simp] theorem State.isHeld_setDt (b : Byte) (q : Key) : (s.setDt b).isHeld q = s.isHeld q := rfl
@[simp] theorem State.isHeld_setSt (b : Byte) (q : Key) : (s.setSt b).isHeld q = s.isHeld q := rfl
@[simp] theorem State.isHeld_setEdge (e : Option Key) (q : Key) : (s.setEdge e).isHeld q = s.isHeld q := rfl
@[simp] theorem State.isHeld_storeBytes (a : Nat) (bs : List Byte) (q : Key) : (s.storeBytes a bs).isHeld q = s.isHeld q := rfl
@[simp] theorem State.isHeld_setFb (fb : Framebuffer) (q : Key) : (s.setFb fb).isHeld q = s.isHeld q := rfl
@[simp] theorem State.isHeld_drawn (q : Key) : s.drawn.isHeld q = s.isHeld q := rfl
@[simp] theorem State.isHeld_setRegs (v : Vector Byte 16) (q : Key) : (s.setRegs v).isHeld q = s.isHeld q := rfl

@[simp] theorem State.cell_setV (r : Reg) (b : Byte) (row col : Nat) : (s.setV r b).cell row col = s.cell row col := rfl
@[simp] theorem State.cell_setI (w : Word) (row col : Nat) : (s.setI w).cell row col = s.cell row col := rfl
@[simp] theorem State.cell_goto (w : Word) (row col : Nat) : (s.goto w).cell row col = s.cell row col := rfl
@[simp] theorem State.cell_setDt (b : Byte) (row col : Nat) : (s.setDt b).cell row col = s.cell row col := rfl
@[simp] theorem State.cell_setSt (b : Byte) (row col : Nat) : (s.setSt b).cell row col = s.cell row col := rfl
@[simp] theorem State.cell_setHeld (k : Key) (b : Bool) (row col : Nat) : (s.setHeld k b).cell row col = s.cell row col := rfl
@[simp] theorem State.cell_setEdge (e : Option Key) (row col : Nat) : (s.setEdge e).cell row col = s.cell row col := rfl
@[simp] theorem State.cell_storeBytes (a : Nat) (bs : List Byte) (row col : Nat) : (s.storeBytes a bs).cell row col = s.cell row col := rfl
@[simp] theorem State.cell_drawn (row col : Nat) : s.drawn.cell row col = s.cell row col := rfl
@[simp] theorem State.cell_setRegs (v : Vector Byte 16) (row col : Nat) : (s.setRegs v).cell row col = s.cell row col := rfl

@[simp] theorem State.byteAt_setV (r : Reg) (b : Byte) (c : Nat) : (s.setV r b).byteAt c = s.byteAt c := rfl
@[simp] theorem State.byteAt_setI (w : Word) (c : Nat) : (s.setI w).byteAt c = s.byteAt c := rfl
@[simp] theorem State.byteAt_goto (w : Word) (c : Nat) : (s.goto w).byteAt c = s.byteAt c := rfl
@[simp] theorem State.byteAt_setDt (b : Byte) (c : Nat) : (s.setDt b).byteAt c = s.byteAt c := rfl
@[simp] theorem State.byteAt_setSt (b : Byte) (c : Nat) : (s.setSt b).byteAt c = s.byteAt c := rfl
@[simp] theorem State.byteAt_setHeld (k : Key) (b : Bool) (c : Nat) : (s.setHeld k b).byteAt c = s.byteAt c := rfl
@[simp] theorem State.byteAt_setEdge (e : Option Key) (c : Nat) : (s.setEdge e).byteAt c = s.byteAt c := rfl
@[simp] theorem State.byteAt_setFb (fb : Framebuffer) (c : Nat) : (s.setFb fb).byteAt c = s.byteAt c := rfl
@[simp] theorem State.byteAt_drawn (c : Nat) : s.drawn.byteAt c = s.byteAt c := rfl
@[simp] theorem State.byteAt_setRegs (v : Vector Byte 16) (c : Nat) : (s.setRegs v).byteAt c = s.byteAt c := rfl

@[simp] theorem State.getV_setEntry (k : Fin 16) (w : Word) (q : Reg) : (s.setEntry k w).getV q = s.getV q := rfl
@[simp] theorem State.getV_setSp (n : Fin 17) (q : Reg) : (s.setSp n).getV q = s.getV q := rfl
@[simp] theorem State.isHeld_setEntry (k : Fin 16) (w : Word) (q : Key) : (s.setEntry k w).isHeld q = s.isHeld q := rfl
@[simp] theorem State.isHeld_setSp (n : Fin 17) (q : Key) : (s.setSp n).isHeld q = s.isHeld q := rfl
@[simp] theorem State.cell_setEntry (k : Fin 16) (w : Word) (row col : Nat) : (s.setEntry k w).cell row col = s.cell row col := rfl
@[simp] theorem State.cell_setSp (n : Fin 17) (row col : Nat) : (s.setSp n).cell row col = s.cell row col := rfl
@[simp] theorem State.byteAt_setEntry (k : Fin 16) (w : Word) (c : Nat) : (s.setEntry k w).byteAt c = s.byteAt c := rfl
@[simp] theorem State.byteAt_setSp (n : Fin 17) (c : Nat) : (s.setSp n).byteAt c = s.byteAt c := rfl

@[simp] theorem State.entry_setV (r : Reg) (b : Byte) (q : Fin 16) : (s.setV r b).entry q = s.entry q := rfl
@[simp] theorem State.entry_setI (w : Word) (q : Fin 16) : (s.setI w).entry q = s.entry q := rfl
@[simp] theorem State.entry_goto (w : Word) (q : Fin 16) : (s.goto w).entry q = s.entry q := rfl
@[simp] theorem State.entry_setDt (b : Byte) (q : Fin 16) : (s.setDt b).entry q = s.entry q := rfl
@[simp] theorem State.entry_setSt (b : Byte) (q : Fin 16) : (s.setSt b).entry q = s.entry q := rfl
@[simp] theorem State.entry_setHeld (k : Key) (b : Bool) (q : Fin 16) : (s.setHeld k b).entry q = s.entry q := rfl
@[simp] theorem State.entry_setEdge (e : Option Key) (q : Fin 16) : (s.setEdge e).entry q = s.entry q := rfl
@[simp] theorem State.entry_storeBytes (a : Nat) (bs : List Byte) (q : Fin 16) : (s.storeBytes a bs).entry q = s.entry q := rfl
@[simp] theorem State.entry_setFb (fb : Framebuffer) (q : Fin 16) : (s.setFb fb).entry q = s.entry q := rfl
@[simp] theorem State.entry_drawn (q : Fin 16) : s.drawn.entry q = s.entry q := rfl
@[simp] theorem State.entry_setRegs (v : Vector Byte 16) (q : Fin 16) : (s.setRegs v).entry q = s.entry q := rfl
@[simp] theorem State.entry_setSp (n : Fin 17) (q : Fin 16) : (s.setSp n).entry q = s.entry q := rfl

/-! ## Registers, keys and screen over their own updates -/

theorem State.getV_setV (r q : Reg) (b : Byte) : (s.setV r b).getV q = if q = r then b else s.getV q := by
  simp only [State.getV, State.setV, Vector.get_eq_getElem, Vector.getElem_set, Fin.ext_iff, eq_comm]

@[simp] theorem State.getV_setV_same (r : Reg) (b : Byte) : (s.setV r b).getV r = b := by simp [State.getV_setV]

theorem State.getV_setV_other {r q : Reg} (h : q ≠ r) (b : Byte) : (s.setV r b).getV q = s.getV q := by
  simp [State.getV_setV, h]

/-- The flag wins over the result (10_state.md R23). -/
theorem State.getV_setWithFlag (x q : Reg) (a f : Byte) :
    (s.setWithFlag x a f).getV q = if q = VF then f else if q = x then a else s.getV q := by
  simp only [State.setWithFlag, State.getV_setV]

@[simp] theorem State.getV_setRegs (q : Reg) (v : Vector Byte 16) : (s.setRegs v).getV q = v.get q := rfl

theorem State.regsLoaded_get (x q : Reg) (a : Nat) :
    (s.regsLoaded x a).get q = if q ≤ x then s.byteAt (a + q.val) else s.getV q := by
  simp [State.regsLoaded, Vector.get_eq_getElem]

theorem State.entry_setEntry (k q : Fin 16) (w : Word) :
    (s.setEntry k w).entry q = if q = k then w else s.entry q := by
  simp only [State.entry, State.setEntry, Vector.get_eq_getElem, Vector.getElem_set, Fin.ext_iff, eq_comm]

theorem State.isHeld_setHeld (k q : Key) (b : Bool) :
    (s.setHeld k b).isHeld q = if q = k then b else s.isHeld q := by
  simp only [State.isHeld, State.setHeld, Vector.get_eq_getElem, Vector.getElem_set, Fin.ext_iff, eq_comm]

@[simp] theorem State.cell_setFb (fb : Framebuffer) (row col : Nat) : (s.setFb fb).cell row col = cellAt fb row col :=
  rfl

/-- The register an earlier store names, as an element of the stored list (43_index_memory.md R184). -/
theorem State.regsUpTo_length (x : Reg) : (s.regsUpTo x).length = x.val + 1 := by
  have := x.isLt
  simp [State.regsUpTo]

theorem State.regsUpTo_getD (x r : Reg) (h : r ≤ x) : (s.regsUpTo x).getD r.val 0 = s.getV r := by
  have hr := r.isLt
  have h' : r.val < x.val + 1 := Nat.lt_succ_of_le h
  simp [State.regsUpTo, State.getV, Vector.get_eq_getElem, List.getD_eq_getElem?_getD, h']

@[simp] theorem State.bytesAt_length (a n : Nat) : (s.bytesAt a n).length = n := by simp [State.bytesAt]

end

end Sys2Proof.Machine
end

