-- ==== Sys2Proof/Laws/Ops.lean ====
section
/-! SUPPORT. For each shared operation, once, everything it can do; the provers cite these and do not unfold it. -/

namespace Sys2Proof.Machine

/-- The range check passes exactly when the range is empty or ends at 4095 or below (20_memory.md R71). -/
theorem withRange_cases (base count : Nat) (k : Result) :
    (4095 < base + count - 1 ∧ 0 < count ∧ withRange base count k = .fault (.addressOutOfBounds (max base 4096))) ∨
    ((count = 0 ∨ base + count ≤ 4096) ∧ withRange base count k = k) := by
  unfold withRange raise
  split
  · exact .inl ⟨by omega, by omega, rfl⟩
  · exact .inr ⟨by omega, rfl⟩

/-- If a checked operation answers a next state, the range lies in memory and the operation answers it. -/
theorem withRange_next {base count : Nat} {k : Result} {t : State} (h : withRange base count k = .next t) :
    (count = 0 ∨ base + count ≤ 4096) ∧ k = .next t := by
  obtain ⟨-, -, e⟩ | ⟨hr, e⟩ := withRange_cases base count k
  · simp [e] at h
  · exact ⟨hr, e ▸ h⟩

/-- The range check passes on a range in memory. -/
theorem withRange_of_le {base count : Nat} (h : base + count ≤ 4096) (k : Result) : withRange base count k = k := by
  obtain ⟨h1, h2, -⟩ | ⟨-, e⟩ := withRange_cases base count k
  · omega
  · exact e

/-- A push: the error exactly at `sp = 16`, else the entry and the pointer (41_control_flow.md R142). -/
theorem pushThen_cases (s : State) (ret : Word) (k : State → Result) :
    (s.sp = 16 ∧ pushThen s ret k = .fault .stackOverflow) ∨
    (∃ h : s.sp.val < 16, pushThen s ret k =
      k ((s.setEntry ⟨s.sp.val, h⟩ ret).setSp ⟨s.sp.val + 1, by omega⟩)) := by
  unfold pushThen raise
  split
  · exact .inr ⟨‹_›, rfl⟩
  · refine .inl ⟨?_, rfl⟩
    have := s.sp.isLt
    exact Fin.ext (by simp; omega)

/-- A pop: the error exactly at `sp = 0`, else the entry below the pointer (41_control_flow.md R140). -/
theorem popThen_cases (s : State) (k : Word → State → Result) :
    (s.sp = 0 ∧ popThen s k = .fault .stackUnderflow) ∨
    (∃ h : 0 < s.sp.val, popThen s k =
      k (s.entry ⟨s.sp.val - 1, by omega⟩) (s.setSp ⟨s.sp.val - 1, by omega⟩)) := by
  unfold popThen raise
  split
  · exact .inr ⟨‹_›, rfl⟩
  · exact .inl ⟨Fin.ext (by simp; omega), rfl⟩

/-- A key operand: the error exactly above 15 (45_keys_timers.md R220). -/
theorem withKey_cases (s : State) (x : Reg) (k : Key → Result) :
    (15 < (s.getV x).toNat ∧ withKey s x k = .fault (.invalidKeyIndex (s.getV x))) ∨
    (∃ h : (s.getV x).toNat < 16, withKey s x k = k ⟨(s.getV x).toNat, h⟩) := by
  unfold withKey raise
  split
  · exact .inr ⟨‹_›, rfl⟩
  · exact .inl ⟨by omega, rfl⟩

/-- The shift operand in its two readings (42_constants_alu.md R172). -/
theorem State.shiftOperand_cases (s : State) (x y : Reg) :
    (s.params.shiftSource = .vx ∧ s.shiftOperand x y = s.getV x) ∨
    (s.params.shiftSource = .vy ∧ s.shiftOperand x y = s.getV y) := by
  unfold State.shiftOperand
  cases h : s.params.shiftSource
  · exact .inl ⟨rfl, rfl⟩
  · exact .inr ⟨rfl, rfl⟩

@[simp] theorem keyToByte_toNat (k : Key) : (keyToByte k).toNat = k.val := by
  have := k.isLt
  simp [keyToByte]; omega

@[simp] theorem zext16_toNat (nnn : Addr12) : (zext16 nnn).toNat = nnn.toNat := by
  have := nnn.isLt
  simp [zext16]; omega

@[simp] theorem byteToWord_toNat (b : Byte) : (byteToWord b).toNat = b.toNat := by
  have := b.isLt
  simp [byteToWord]; omega

@[simp] theorem glyphAddress_toNat (b : Byte) : (glyphAddress b).toNat = b.toNat * 5 := by
  have := b.isLt
  simp [glyphAddress]; omega

@[simp] theorem bcdDigits_length (b : Byte) : (bcdDigits b).length = 3 := rfl

/-! ## Flags -/

@[simp] theorem flagByte_toNat (b : Bool) : (flagByte b).toNat = if b then 1 else 0 := by cases b <;> rfl

theorem flagByte_eq (b : Bool) : flagByte b = 0 ∨ flagByte b = 1 := by cases b <;> simp [flagByte]

theorem carryFlag_toNat (a b : Byte) : (carryFlag a b).toNat = if 255 < a.toNat + b.toNat then 1 else 0 := by
  simp [carryFlag]

theorem noBorrowFlag_toNat (a b : Byte) : (noBorrowFlag a b).toNat = if b.toNat ≤ a.toNat then 1 else 0 := by
  simp [noBorrowFlag]

end Sys2Proof.Machine
end

