-- ==== Sys2Proof/Laws/PerInstr.lean ====
section
/-! SUPPORT. Statements about every instruction as syntax, one lemma per constructor, and the lemmas of the encoder's
formats they rest on. -/

namespace Sys2Proof

/-- A value below the field's bound fits it. -/
theorem fitsField_of_lt {bits v : Nat} (h : v < 2 ^ bits) : fitsField bits v = true := by
  simpa [fitsField] using h

@[simp] theorem fitsField_reg (x : Fin 16) : fitsField 4 x.val = true := fitsField_of_lt x.isLt
@[simp] theorem fitsField_byte (b : Byte) : fitsField 8 b.toNat = true := fitsField_of_lt b.isLt
@[simp] theorem fitsField_addr (a : Addr12) : fitsField 12 a.toNat = true := fitsField_of_lt a.isLt

theorem and_ones4 (b : BitVec 4) : b &&& 0xF#4 = b := BitVec.and_allOnes
theorem and_ones8 (b : BitVec 8) : b &&& 0xFF#8 = b := BitVec.and_allOnes

/-! The five formats with free fields under the masks of the opcode table (30_encoding.md R92, R96). -/

theorem formatA_mask (op : BitVec 4) (nnn : Addr12) : formatA op nnn &&& 0xF000#16 = op ++ 0#12 := by
  have h : 0xF000#16 = 0xF#4 ++ 0#12 := by decide
  rw [h, formatA, BitVec.and_append, and_ones4, BitVec.and_zero]

theorem formatXK_mask (op : BitVec 4) (x : Reg) (kk : Byte) : formatXK op x kk &&& 0xF000#16 = op ++ (0#4 ++ 0#8) := by
  have h : 0xF000#16 = 0xF#4 ++ (0#4 ++ 0#8) := by decide
  rw [h, formatXK, BitVec.and_append, BitVec.and_append, and_ones4, BitVec.and_zero, BitVec.and_zero]

theorem formatXY_mask (op : BitVec 4) (x y : Reg) (sel : BitVec 4) :
    formatXY op x y sel &&& 0xF00F#16 = op ++ (0#4 ++ (0#4 ++ sel)) := by
  have h : 0xF00F#16 = 0xF#4 ++ (0#4 ++ (0#4 ++ 0xF#4)) := by decide
  rw [h, formatXY, BitVec.and_append, BitVec.and_append, BitVec.and_append, and_ones4, and_ones4, BitVec.and_zero,
    BitVec.and_zero]

theorem formatXYN_mask (op : BitVec 4) (x y : Reg) (n : Fin 16) :
    formatXYN op x y n &&& 0xF000#16 = op ++ (0#4 ++ (0#4 ++ 0#4)) := by
  have h : 0xF000#16 = 0xF#4 ++ (0#4 ++ (0#4 ++ 0#4)) := by decide
  rw [h, formatXYN, BitVec.and_append, BitVec.and_append, BitVec.and_append, and_ones4, BitVec.and_zero,
    BitVec.and_zero, BitVec.and_zero]

theorem formatXS_mask (op : BitVec 4) (x : Reg) (sel : BitVec 8) :
    formatXS op x sel &&& 0xF0FF#16 = op ++ (0#4 ++ sel) := by
  have h : 0xF0FF#16 = 0xF#4 ++ (0#4 ++ 0xFF#8) := by decide
  rw [h, formatXS, BitVec.and_append, BitVec.and_append, and_ones4, and_ones8, BitVec.and_zero]

end Sys2Proof

namespace Sys2Proof.Laws

/-- The operands of an instruction always fit its fields: their types say so (30_encoding.md R91). -/
def OperandsFit.Statement (i : Instr) : Prop := i.wf = true

/-- The word of an instruction has the pattern of a row of the opcode table that bears its mnemonic (30_encoding.md
R96). -/
def EncodesItsRow.Statement (i : Instr) : Prop :=
  ∃ r ∈ opcodeTable, r.mnemonic = i.mnemonic ∧ r.accepts (encode i) = true

/-- How each lemma of the family below is proved: name the row, and compute the masked word. -/
theorem encodesItsRow_of_mask (i : Instr) (r : OpcodeRow) (hr : r ∈ opcodeTable) (hn : r.mnemonic = i.mnemonic)
    (hm : encode i &&& r.mask = r.pattern) : EncodesItsRow.Statement i :=
  ⟨r, hr, hn, by simp [OpcodeRow.accepts, hm]⟩

end Sys2Proof.Laws

theorem Sys2Proof.Laws.OperandsFit.clearDisplay : Statement .clearDisplay := rfl
theorem Sys2Proof.Laws.OperandsFit.ret : Statement .ret := rfl
theorem Sys2Proof.Laws.OperandsFit.jump (nnn : Addr12) : Statement (.jump nnn) := by simp [OperandsFit.Statement, Instr.wf]
theorem Sys2Proof.Laws.OperandsFit.call (nnn : Addr12) : Statement (.call nnn) := by simp [OperandsFit.Statement, Instr.wf]
theorem Sys2Proof.Laws.OperandsFit.skipEqConst (x : Reg) (kk : Byte) : Statement (.skipEqConst x kk) := by simp [OperandsFit.Statement, Instr.wf]
theorem Sys2Proof.Laws.OperandsFit.skipNeConst (x : Reg) (kk : Byte) : Statement (.skipNeConst x kk) := by simp [OperandsFit.Statement, Instr.wf]
theorem Sys2Proof.Laws.OperandsFit.skipEqReg (x y : Reg) : Statement (.skipEqReg x y) := by simp [OperandsFit.Statement, Instr.wf]
theorem Sys2Proof.Laws.OperandsFit.setConst (x : Reg) (kk : Byte) : Statement (.setConst x kk) := by simp [OperandsFit.Statement, Instr.wf]
theorem Sys2Proof.Laws.OperandsFit.addConst (x : Reg) (kk : Byte) : Statement (.addConst x kk) := by simp [OperandsFit.Statement, Instr.wf]
theorem Sys2Proof.Laws.OperandsFit.set (x y : Reg) : Statement (.set x y) := by simp [OperandsFit.Statement, Instr.wf]
theorem Sys2Proof.Laws.OperandsFit.or (x y : Reg) : Statement (.or x y) := by simp [OperandsFit.Statement, Instr.wf]
theorem Sys2Proof.Laws.OperandsFit.and (x y : Reg) : Statement (.and x y) := by simp [OperandsFit.Statement, Instr.wf]
theorem Sys2Proof.Laws.OperandsFit.xor (x y : Reg) : Statement (.xor x y) := by simp [OperandsFit.Statement, Instr.wf]
theorem Sys2Proof.Laws.OperandsFit.add (x y : Reg) : Statement (.add x y) := by simp [OperandsFit.Statement, Instr.wf]
theorem Sys2Proof.Laws.OperandsFit.sub (x y : Reg) : Statement (.sub x y) := by simp [OperandsFit.Statement, Instr.wf]
theorem Sys2Proof.Laws.OperandsFit.shiftRight (x y : Reg) : Statement (.shiftRight x y) := by simp [OperandsFit.Statement, Instr.wf]
theorem Sys2Proof.Laws.OperandsFit.subN (x y : Reg) : Statement (.subN x y) := by simp [OperandsFit.Statement, Instr.wf]
theorem Sys2Proof.Laws.OperandsFit.shiftLeft (x y : Reg) : Statement (.shiftLeft x y) := by simp [OperandsFit.Statement, Instr.wf]
theorem Sys2Proof.Laws.OperandsFit.skipNeReg (x y : Reg) : Statement (.skipNeReg x y) := by simp [OperandsFit.Statement, Instr.wf]
theorem Sys2Proof.Laws.OperandsFit.setI (nnn : Addr12) : Statement (.setI nnn) := by simp [OperandsFit.Statement, Instr.wf]
theorem Sys2Proof.Laws.OperandsFit.rand (x : Reg) (kk : Byte) : Statement (.rand x kk) := by simp [OperandsFit.Statement, Instr.wf]
theorem Sys2Proof.Laws.OperandsFit.draw (x y : Reg) (n : Fin 16) : Statement (.draw x y n) := by simp [OperandsFit.Statement, Instr.wf]
theorem Sys2Proof.Laws.OperandsFit.skipKeyPressed (x : Reg) : Statement (.skipKeyPressed x) := by simp [OperandsFit.Statement, Instr.wf]
theorem Sys2Proof.Laws.OperandsFit.skipKeyNotPressed (x : Reg) : Statement (.skipKeyNotPressed x) := by simp [OperandsFit.Statement, Instr.wf]
theorem Sys2Proof.Laws.OperandsFit.getDelay (x : Reg) : Statement (.getDelay x) := by simp [OperandsFit.Statement, Instr.wf]
theorem Sys2Proof.Laws.OperandsFit.haltUntilPressed (x : Reg) : Statement (.haltUntilPressed x) := by simp [OperandsFit.Statement, Instr.wf]
theorem Sys2Proof.Laws.OperandsFit.setDelay (x : Reg) : Statement (.setDelay x) := by simp [OperandsFit.Statement, Instr.wf]
theorem Sys2Proof.Laws.OperandsFit.setSound (x : Reg) : Statement (.setSound x) := by simp [OperandsFit.Statement, Instr.wf]
theorem Sys2Proof.Laws.OperandsFit.addI (x : Reg) : Statement (.addI x) := by simp [OperandsFit.Statement, Instr.wf]
theorem Sys2Proof.Laws.OperandsFit.loadFont (x : Reg) : Statement (.loadFont x) := by simp [OperandsFit.Statement, Instr.wf]
theorem Sys2Proof.Laws.OperandsFit.storeBcd (x : Reg) : Statement (.storeBcd x) := by simp [OperandsFit.Statement, Instr.wf]
theorem Sys2Proof.Laws.OperandsFit.storeV (x : Reg) : Statement (.storeV x) := by simp [OperandsFit.Statement, Instr.wf]
theorem Sys2Proof.Laws.OperandsFit.loadV (x : Reg) : Statement (.loadV x) := by simp [OperandsFit.Statement, Instr.wf]

theorem Sys2Proof.Laws.EncodesItsRow.clearDisplay : Statement .clearDisplay :=
  encodesItsRow_of_mask _ ⟨"ClearDisplay", 0xFFFF, 0x00E0⟩ (by decide) rfl (by decide)
theorem Sys2Proof.Laws.EncodesItsRow.ret : Statement .ret :=
  encodesItsRow_of_mask _ ⟨"Return", 0xFFFF, 0x00EE⟩ (by decide) rfl (by decide)
theorem Sys2Proof.Laws.EncodesItsRow.jump (nnn : Addr12) : Statement (.jump nnn) :=
  encodesItsRow_of_mask _ ⟨"Jump", 0xF000, 0x1000⟩ (by decide) rfl (formatA_mask _ _)
theorem Sys2Proof.Laws.EncodesItsRow.call (nnn : Addr12) : Statement (.call nnn) :=
  encodesItsRow_of_mask _ ⟨"Call", 0xF000, 0x2000⟩ (by decide) rfl (formatA_mask _ _)
theorem Sys2Proof.Laws.EncodesItsRow.skipEqConst (x : Reg) (kk : Byte) : Statement (.skipEqConst x kk) :=
  encodesItsRow_of_mask _ ⟨"SkipEqConst", 0xF000, 0x3000⟩ (by decide) rfl (formatXK_mask _ _ _)
theorem Sys2Proof.Laws.EncodesItsRow.skipNeConst (x : Reg) (kk : Byte) : Statement (.skipNeConst x kk) :=
  encodesItsRow_of_mask _ ⟨"SkipNeConst", 0xF000, 0x4000⟩ (by decide) rfl (formatXK_mask _ _ _)
theorem Sys2Proof.Laws.EncodesItsRow.skipEqReg (x y : Reg) : Statement (.skipEqReg x y) :=
  encodesItsRow_of_mask _ ⟨"SkipEqReg", 0xF00F, 0x5000⟩ (by decide) rfl (formatXY_mask _ _ _ _)
theorem Sys2Proof.Laws.EncodesItsRow.setConst (x : Reg) (kk : Byte) : Statement (.setConst x kk) :=
  encodesItsRow_of_mask _ ⟨"SetConst", 0xF000, 0x6000⟩ (by decide) rfl (formatXK_mask _ _ _)
theorem Sys2Proof.Laws.EncodesItsRow.addConst (x : Reg) (kk : Byte) : Statement (.addConst x kk) :=
  encodesItsRow_of_mask _ ⟨"AddConst", 0xF000, 0x7000⟩ (by decide) rfl (formatXK_mask _ _ _)
theorem Sys2Proof.Laws.EncodesItsRow.set (x y : Reg) : Statement (.set x y) :=
  encodesItsRow_of_mask _ ⟨"Set", 0xF00F, 0x8000⟩ (by decide) rfl (formatXY_mask _ _ _ _)
theorem Sys2Proof.Laws.EncodesItsRow.or (x y : Reg) : Statement (.or x y) :=
  encodesItsRow_of_mask _ ⟨"Or", 0xF00F, 0x8001⟩ (by decide) rfl (formatXY_mask _ _ _ _)
theorem Sys2Proof.Laws.EncodesItsRow.and (x y : Reg) : Statement (.and x y) :=
  encodesItsRow_of_mask _ ⟨"And", 0xF00F, 0x8002⟩ (by decide) rfl (formatXY_mask _ _ _ _)
theorem Sys2Proof.Laws.EncodesItsRow.xor (x y : Reg) : Statement (.xor x y) :=
  encodesItsRow_of_mask _ ⟨"Xor", 0xF00F, 0x8003⟩ (by decide) rfl (formatXY_mask _ _ _ _)
theorem Sys2Proof.Laws.EncodesItsRow.add (x y : Reg) : Statement (.add x y) :=
  encodesItsRow_of_mask _ ⟨"Add", 0xF00F, 0x8004⟩ (by decide) rfl (formatXY_mask _ _ _ _)
theorem Sys2Proof.Laws.EncodesItsRow.sub (x y : Reg) : Statement (.sub x y) :=
  encodesItsRow_of_mask _ ⟨"Sub", 0xF00F, 0x8005⟩ (by decide) rfl (formatXY_mask _ _ _ _)
theorem Sys2Proof.Laws.EncodesItsRow.shiftRight (x y : Reg) : Statement (.shiftRight x y) :=
  encodesItsRow_of_mask _ ⟨"ShiftRight", 0xF00F, 0x8006⟩ (by decide) rfl (formatXY_mask _ _ _ _)
theorem Sys2Proof.Laws.EncodesItsRow.subN (x y : Reg) : Statement (.subN x y) :=
  encodesItsRow_of_mask _ ⟨"SubN", 0xF00F, 0x8007⟩ (by decide) rfl (formatXY_mask _ _ _ _)
theorem Sys2Proof.Laws.EncodesItsRow.shiftLeft (x y : Reg) : Statement (.shiftLeft x y) :=
  encodesItsRow_of_mask _ ⟨"ShiftLeft", 0xF00F, 0x800E⟩ (by decide) rfl (formatXY_mask _ _ _ _)
theorem Sys2Proof.Laws.EncodesItsRow.skipNeReg (x y : Reg) : Statement (.skipNeReg x y) :=
  encodesItsRow_of_mask _ ⟨"SkipNeReg", 0xF00F, 0x9000⟩ (by decide) rfl (formatXY_mask _ _ _ _)
theorem Sys2Proof.Laws.EncodesItsRow.setI (nnn : Addr12) : Statement (.setI nnn) :=
  encodesItsRow_of_mask _ ⟨"SetI", 0xF000, 0xA000⟩ (by decide) rfl (formatA_mask _ _)
theorem Sys2Proof.Laws.EncodesItsRow.rand (x : Reg) (kk : Byte) : Statement (.rand x kk) :=
  encodesItsRow_of_mask _ ⟨"Rand", 0xF000, 0xC000⟩ (by decide) rfl (formatXK_mask _ _ _)
theorem Sys2Proof.Laws.EncodesItsRow.draw (x y : Reg) (n : Fin 16) : Statement (.draw x y n) :=
  encodesItsRow_of_mask _ ⟨"Draw", 0xF000, 0xD000⟩ (by decide) rfl (formatXYN_mask _ _ _ _)
theorem Sys2Proof.Laws.EncodesItsRow.skipKeyPressed (x : Reg) : Statement (.skipKeyPressed x) :=
  encodesItsRow_of_mask _ ⟨"SkipKeyPressed", 0xF0FF, 0xE09E⟩ (by decide) rfl (formatXS_mask _ _ _)
theorem Sys2Proof.Laws.EncodesItsRow.skipKeyNotPressed (x : Reg) : Statement (.skipKeyNotPressed x) :=
  encodesItsRow_of_mask _ ⟨"SkipKeyNotPressed", 0xF0FF, 0xE0A1⟩ (by decide) rfl (formatXS_mask _ _ _)
theorem Sys2Proof.Laws.EncodesItsRow.getDelay (x : Reg) : Statement (.getDelay x) :=
  encodesItsRow_of_mask _ ⟨"GetDelay", 0xF0FF, 0xF007⟩ (by decide) rfl (formatXS_mask _ _ _)
theorem Sys2Proof.Laws.EncodesItsRow.haltUntilPressed (x : Reg) : Statement (.haltUntilPressed x) :=
  encodesItsRow_of_mask _ ⟨"HaltUntilPressed", 0xF0FF, 0xF00A⟩ (by decide) rfl (formatXS_mask _ _ _)
theorem Sys2Proof.Laws.EncodesItsRow.setDelay (x : Reg) : Statement (.setDelay x) :=
  encodesItsRow_of_mask _ ⟨"SetDelay", 0xF0FF, 0xF015⟩ (by decide) rfl (formatXS_mask _ _ _)
theorem Sys2Proof.Laws.EncodesItsRow.setSound (x : Reg) : Statement (.setSound x) :=
  encodesItsRow_of_mask _ ⟨"SetSound", 0xF0FF, 0xF018⟩ (by decide) rfl (formatXS_mask _ _ _)
theorem Sys2Proof.Laws.EncodesItsRow.addI (x : Reg) : Statement (.addI x) :=
  encodesItsRow_of_mask _ ⟨"AddI", 0xF0FF, 0xF01E⟩ (by decide) rfl (formatXS_mask _ _ _)
theorem Sys2Proof.Laws.EncodesItsRow.loadFont (x : Reg) : Statement (.loadFont x) :=
  encodesItsRow_of_mask _ ⟨"LoadFont", 0xF0FF, 0xF029⟩ (by decide) rfl (formatXS_mask _ _ _)
theorem Sys2Proof.Laws.EncodesItsRow.storeBcd (x : Reg) : Statement (.storeBcd x) :=
  encodesItsRow_of_mask _ ⟨"StoreBcd", 0xF0FF, 0xF033⟩ (by decide) rfl (formatXS_mask _ _ _)
theorem Sys2Proof.Laws.EncodesItsRow.storeV (x : Reg) : Statement (.storeV x) :=
  encodesItsRow_of_mask _ ⟨"StoreV", 0xF0FF, 0xF055⟩ (by decide) rfl (formatXS_mask _ _ _)
theorem Sys2Proof.Laws.EncodesItsRow.loadV (x : Reg) : Statement (.loadV x) :=
  encodesItsRow_of_mask _ ⟨"LoadV", 0xF0FF, 0xF065⟩ (by decide) rfl (formatXS_mask _ _ _)
end

