-- ==== Sys2Proof/Laws/Step.lean ====
section
/-! SUPPORT. Once, everything a cycle, a command and a step can do; every invariant is derived from these. -/

namespace Sys2Proof.Machine

/-- The common tail answers a next state exactly when the instruction does. -/
theorem commonTail_next {r : Result} {t : State} (h : commonTail r = .next t) : ∃ u, r = .next u ∧ t = u.setEdge none := by
  cases r with
  | next u => exact ⟨u, rfl, by simpa [commonTail] using h.symm⟩
  | fault f => simp [commonTail] at h
  | refused q => simp [commonTail] at h

theorem fetch_eq_some {s : State} {w : Word} (h : fetch s = some w) :
    s.pc.toNat ≤ 4094 ∧ w = wordOfBytes (s.byteAt s.pc.toNat) (s.byteAt (s.pc.toNat + 1)) := by
  unfold fetch at h
  split at h
  · exact ⟨‹_›, by simpa using h.symm⟩
  · cases h

/-- A cycle that gives a next state: the fetch was in range, the word is an instruction, and the instruction ran. -/
theorem cycle_next {s t : State} (h : cycle s = .next t) :
    ∃ w i u, fetch s = some w ∧ decode w = .known i ∧ exec i s = .next u ∧ t = u.setEdge none := by
  unfold cycle at h
  split at h
  · cases h
  · rename_i w hw
    split at h
    · rename_i i hi
      obtain ⟨u, hu, rfl⟩ := commonTail_next h
      exact ⟨w, i, u, hw, hi, hu, rfl⟩
    · cases h

/-- A command that gives a next state is one of the six. -/
theorem runCommand_next {c : Command} {s t : State} (h : runCommand c s = .next t) :
    (c = .reset ∧ t = { State.resetWith s.params with draws := s.draws, script := s.script }) ∨
    (∃ rom, c = .load rom ∧ rom.length ≤ 3584 ∧ t = s.storeBytes 0x200 rom) ∨
    (c = .cycle ∧ cycle s = .next t) ∨
    (c = .tickTimers ∧ t = (s.setDt (tick s.dt)).setSt (tick s.st)) ∨
    (∃ k b, c = .setKey k b ∧ (t = s.setHeld k b ∨ t = (s.setHeld k b).setEdge (some k))) ∨
    (c = .framebuffer ∧ t = s) := by
  unfold runCommand at h
  split at h
  · cases c with
    | reset => exact .inl ⟨rfl, by simpa [commandReset] using h.symm⟩
    | load rom =>
      by_cases hl : rom.length ≤ 3584
      · refine .inr (.inl ⟨rom, rfl, hl, ?_⟩)
        simpa [commandLoad, romFits, hl] using h.symm
      · simp [commandLoad, romFits, hl, raise] at h
    | cycle => exact .inr (.inr (.inl ⟨rfl, h⟩))
    | tickTimers => exact .inr (.inr (.inr (.inl ⟨rfl, by simpa [commandTickTimers] using h.symm⟩)))
    | setKey k b =>
      refine .inr (.inr (.inr (.inr (.inl ⟨k, b, rfl, ?_⟩))))
      simp only [commandSetKey] at h
      split at h
      · exact .inr (by simpa using h.symm)
      · exact .inl (by simpa using h.symm)
    | framebuffer => exact .inr (.inr (.inr (.inr (.inr ⟨rfl, by simpa [commandFramebuffer] using h.symm⟩))))
  · cases h

/-- A step is a command of the host's script, or a cycle when the script is empty. -/
theorem step_next {s t : State} (h : step s = .next t) :
    (s.script = [] ∧ runCommand .cycle s = .next t) ∨
    (∃ c rest, s.script = c :: rest ∧ runCommand c { s with script := rest } = .next t) := by
  unfold step at h
  split at h
  · exact .inl ⟨‹_›, h⟩
  · exact .inr ⟨_, _, ‹_›, h⟩

/-- After the first reset a command runs. -/
theorem runCommand_afterReset {s : State} (h : s.afterReset = true) : runCommand .cycle s = cycle s := by
  simp [runCommand, h]

end Sys2Proof.Machine
end

