-- ==== Sys2Proof/Tests/Slice0.lean ====
section
/-! SUPPORT. Tests of the model by its author. Every expected result comes from the spec: the words are written out from
the formats of 30_encoding.md R92 and the table of R96, the effects are vectors of 95_test_vectors.md, named at each. The
witnesses at the end give, for every statement with hypotheses, a state and operands that meet them. -/

namespace Sys2Proof.Tests

open Sys2Proof Sys2Proof.Machine Sys2Proof.Statements

/-! ## Helpers -/

/-- What one field reads after an instruction, or nothing if it did not give a next state. -/
def after {α : Type} (i : Instr) (s : State) (field : State → α) : Option α :=
  match exec i s with
  | .next t => some (field t)
  | .fault _ | .refused _ => none

/-- The error of an instruction. -/
def errorOf (i : Instr) (s : State) : Option Fault :=
  match exec i s with
  | .fault f => some f
  | .next _ | .refused _ => none

/-- What one field reads after a command, with its reply. -/
def issued {α : Type} (c : Command) (s : State) (field : State → α) : α × Reply :=
  (field (issue c s).1, (issue c s).2)

/-- What one field reads after a step, or nothing if it gave no next state. -/
def stepped {α : Type} (s : State) (field : State → α) : Option α :=
  match step s with
  | .next t => some (field t)
  | .fault _ | .refused _ => none

/-- The fresh state with V0 and V1. -/
def v01 (a b : Byte) : State := (State.reset.setV 0 a).setV 1 b

/-- The fresh state with V0, V1 and VF. -/
def v01f (a b f : Byte) : State := (v01 a b).setV 15 f

/-- The fresh state with `I` and bytes there. -/
def atI (a : Nat) (bytes : List Byte) : State := (State.reset.setI (BitVec.ofNat 16 a)).storeBytes a bytes

/-- The fresh state with a word at its `pc`. -/
def program (w : Word) : State := State.reset.withFetchWord 16 w.toNat

/-- `V0` and VF. -/
def v0f (t : State) : Byte × Byte := (t.getV 0, t.getV 15)

/-- The cells set on the top row, by column. -/
def topRow (t : State) : List Nat := (List.range 64).filter fun c => t.cell 0 c

/-- The parameters with the shift reading of 42_constants_alu.md R172. -/
def shiftVy (s : State) : State := { s with params := { s.params with shiftSource := .vy } }

/-! ## Well-formedness: an ill-formed value is refused -/

theorem test_fitsField_reg : fitsField 4 16 = false ∧ fitsField 4 15 = true := by decide
theorem test_fitsField_byte : fitsField 8 256 = false ∧ fitsField 8 255 = true := by decide
theorem test_fitsField_address : fitsField 12 4096 = false ∧ fitsField 12 4095 = true := by decide
theorem test_width : widthAllowed 48 = false ∧ widthAllowed 4 = false ∧ widthAllowed 512 = false ∧
    widthAllowed 8 = true ∧ widthAllowed 256 = true := by decide
theorem test_height : heightAllowed 48 = false ∧ heightAllowed 8 = false ∧ heightAllowed 512 = false ∧
    heightAllowed 16 = true ∧ heightAllowed 64 = true := by decide
theorem test_params : ({ defaultParams with displayWidth := 48 } : Params).wf = false ∧ defaultParams.wf = true := by
  decide
theorem test_romFits : romFits (List.replicate 3584 0) = true ∧ romFits (List.replicate 3585 0) = false := by
  simp only [romFits, List.length_replicate]
  decide

/-! ## Decoding: one word for every constructor (30_encoding.md R92, R96; 95_test_vectors.md 2.1) -/

theorem test_decode_clearDisplay : decode 0b0000_0000_1110_0000 = .known .clearDisplay := by decide
theorem test_decode_ret : decode 0b0000_0000_1110_1110 = .known .ret := by decide
theorem test_decode_jump : decode 0b0001_1010_1011_1100 = .known (.jump 0xABC) := by decide
theorem test_decode_call : decode 0b0010_0010_0000_0000 = .known (.call 0x200) := by decide
theorem test_decode_skipEqConst : decode 0b0011_1010_0111_1111 = .known (.skipEqConst 10 0x7F) := by decide
theorem test_decode_skipNeConst : decode 0b0100_0000_0000_0001 = .known (.skipNeConst 0 0x01) := by decide
theorem test_decode_skipEqReg : decode 0b0101_0001_0010_0000 = .known (.skipEqReg 1 2) := by decide
theorem test_decode_setConst : decode 0b0110_0000_0000_0101 = .known (.setConst 0 0x05) := by decide
theorem test_decode_addConst : decode 0b0111_1111_1111_1111 = .known (.addConst 15 0xFF) := by decide
theorem test_decode_set : decode 0b1000_0011_1100_0000 = .known (.set 3 12) := by decide
theorem test_decode_or : decode 0b1000_0011_1100_0001 = .known (.or 3 12) := by decide
theorem test_decode_and : decode 0b1000_0011_1100_0010 = .known (.and 3 12) := by decide
theorem test_decode_xor : decode 0b1000_0011_1100_0011 = .known (.xor 3 12) := by decide
theorem test_decode_add : decode 0b1000_0000_0001_0100 = .known (.add 0 1) := by decide
theorem test_decode_sub : decode 0b1000_0011_1100_0101 = .known (.sub 3 12) := by decide
theorem test_decode_shiftRight : decode 0b1000_1010_1011_0110 = .known (.shiftRight 10 11) := by decide
theorem test_decode_subN : decode 0b1000_0011_1100_0111 = .known (.subN 3 12) := by decide
theorem test_decode_shiftLeft : decode 0b1000_0001_0010_1110 = .known (.shiftLeft 1 2) := by decide
theorem test_decode_skipNeReg : decode 0b1001_0001_0010_0000 = .known (.skipNeReg 1 2) := by decide
theorem test_decode_setI : decode 0b1010_0001_0010_0011 = .known (.setI 0x123) := by decide
theorem test_decode_rand : decode 0b1100_0011_0000_1111 = .known (.rand 3 0x0F) := by decide
theorem test_decode_draw : decode 0b1101_0010_0011_0101 = .known (.draw 2 3 5) := by decide
theorem test_decode_skipKeyPressed : decode 0b1110_0001_1001_1110 = .known (.skipKeyPressed 1) := by decide
theorem test_decode_skipKeyNotPressed : decode 0b1110_0001_1010_0001 = .known (.skipKeyNotPressed 1) := by decide
theorem test_decode_getDelay : decode 0b1111_0010_0000_0111 = .known (.getDelay 2) := by decide
theorem test_decode_haltUntilPressed : decode 0b1111_0011_0000_1010 = .known (.haltUntilPressed 3) := by decide
theorem test_decode_setDelay : decode 0b1111_0100_0001_0101 = .known (.setDelay 4) := by decide
theorem test_decode_setSound : decode 0b1111_0101_0001_1000 = .known (.setSound 5) := by decide
theorem test_decode_addI : decode 0b1111_0110_0001_1110 = .known (.addI 6) := by decide
theorem test_decode_loadFont : decode 0b1111_0111_0010_1001 = .known (.loadFont 7) := by decide
theorem test_decode_storeBcd : decode 0b1111_1000_0011_0011 = .known (.storeBcd 8) := by decide
theorem test_decode_storeV : decode 0b1111_1001_0101_0101 = .known (.storeV 9) := by decide
theorem test_decode_loadV : decode 0b1111_0010_0110_0101 = .known (.loadV 2) := by decide

/-- Near misses and the words the table leaves out (2.1). -/
theorem test_decode_unknown :
    decode 0x0000 = .unknown 0x0000 ∧ decode 0x00E1 = .unknown 0x00E1 ∧ decode 0x01E0 = .unknown 0x01E0 ∧
    decode 0x5011 = .unknown 0x5011 ∧ decode 0x8018 = .unknown 0x8018 ∧ decode 0x9AB1 = .unknown 0x9AB1 ∧
    decode 0xB123 = .unknown 0xB123 ∧ decode 0xE09F = .unknown 0xE09F ∧ decode 0xF030 = .unknown 0xF030 := by decide

/-- The byte at the lower address is the high byte (S10). -/
theorem test_decodeBytes : decodeBytes [0x60, 0x05, 0x61] = .ok (.setConst 0 0x05, [0x61]) := by decide

/-- A word as the host hands it over, and one that is refused. -/
theorem test_decodeTableWord :
    decodeTableWord 16 0x8014 = some (.add 0 1) ∧ decodeTableWord 16 0xB123 = none := by decide

/-! ## One step of every instruction (95_test_vectors.md 2.3 to 2.7) -/

theorem test_jump : after (.jump 0xABC) State.reset (·.pc) = some 0xABC := by decide
theorem test_call : after (.call 0xABC) State.reset (fun t => (t.entry 0, t.sp, t.pc)) = some (0x202, 1, 0xABC) := by
  decide
theorem test_call_full : errorOf (.call 0x300) (State.reset.setSp 16) = some .stackOverflow := by decide
theorem test_ret : after .ret ((State.reset.setEntry 0 0x202).setSp 1) (fun t => (t.entry 0, t.sp, t.pc)) =
    some (0x202, 0, 0x202) := by decide
theorem test_ret_empty : errorOf .ret State.reset = some .stackUnderflow := by decide
theorem test_skipEqConst : after (.skipEqConst 0 0x12) (v01 0x12 0) (·.pc) = some 0x204 ∧
    after (.skipEqConst 0 0x13) (v01 0x12 0) (·.pc) = some 0x202 := by decide
theorem test_skipNeConst : after (.skipNeConst 0 0x12) (v01 0x12 0) (·.pc) = some 0x202 ∧
    after (.skipNeConst 0 0x13) (v01 0x12 0) (·.pc) = some 0x204 := by decide
theorem test_skipEqReg : after (.skipEqReg 0 1) (v01 7 7) (·.pc) = some 0x204 ∧
    after (.skipEqReg 0 1) (v01 7 8) (·.pc) = some 0x202 := by decide
theorem test_skipNeReg : after (.skipNeReg 0 1) (v01 7 8) (·.pc) = some 0x204 ∧
    after (.skipNeReg 0 1) (v01 7 7) (·.pc) = some 0x202 := by decide
theorem test_setConst : after (.setConst 15 0x07) (v01f 0 0 1) v0f = some (0, 7) := by decide
theorem test_addConst : after (.addConst 0 10) (v01 250 0) v0f = some (4, 0) := by decide
theorem test_set : after (.set 0 1) (v01 1 0x5A) v0f = some (0x5A, 0) := by decide
theorem test_or : after (.or 0 1) (v01f 0xF0 0x0F 1) v0f = some (0xFF, 1) := by decide
theorem test_and : after (.and 0 1) (v01f 0xF0 0x3C 1) v0f = some (0x30, 1) := by decide
theorem test_xor : after (.xor 0 1) (v01f 0xF0 0x3C 1) v0f = some (0xCC, 1) := by decide
theorem test_add : after (.add 0 1) (v01 250 10) v0f = some (4, 1) ∧ after (.add 0 1) (v01 255 0) v0f = some (255, 0) := by
  decide
theorem test_add_vf : after (.add 15 1) (v01f 0 100 200) v0f = some (0, 1) ∧
    after (.add 0 15) (v01f 1 0 255) v0f = some (0, 1) := by decide
theorem test_sub : after (.sub 0 1) (v01 5 5) v0f = some (0, 1) ∧ after (.sub 0 1) (v01 3 5) v0f = some (254, 0) := by
  decide
theorem test_subN : after (.subN 0 1) (v01 5 3) v0f = some (254, 0) ∧ after (.subN 0 1) (v01 3 5) v0f = some (2, 1) := by
  decide
theorem test_shiftRight : after (.shiftRight 0 1) (v01 0x05 0xF0) v0f = some (0x02, 1) ∧
    after (.shiftRight 0 1) (shiftVy (v01 0x05 0xF0)) v0f = some (0x78, 0) := by decide
theorem test_shiftLeft : after (.shiftLeft 0 0) (v01 0x81 0) v0f = some (0x02, 1) ∧
    after (.shiftLeft 15 0) (v01f 0 0 0x40) v0f = some (0, 0) := by decide
theorem test_rand_zero_mask : after (.rand 0 0x00) (v01f 9 0 1) (fun t => (t.draws, t.getV 15)) = some (1, 1) := by
  decide
theorem test_setI : after (.setI 0x123) (State.reset.setI 0xFFFF) (·.i) = some 0x0123 := by decide
theorem test_addI : after (.addI 0) ((v01f 5 0 0).setI 0x0FFE) (fun t => (t.i, t.getV 15)) = some (0x1003, 0) ∧
    after (.addI 0) ((v01 1 0).setI 0xFFFF) (·.i) = some 0x0000 := by decide
theorem test_loadFont : after (.loadFont 0) (v01 0x0A 0) (·.i) = some 0x0032 ∧
    after (.loadFont 0) (v01 0xFF 0) (·.i) = some 0x04FB := by decide
theorem test_storeBcd : after (.storeBcd 0) ((v01 255 0).setI 0x300) (fun t => (t.bytesAt 0x300 4, t.i)) =
    some ([2, 5, 5, 0], 0x300) := by decide
theorem test_storeBcd_bounds : after (.storeBcd 0) ((v01 128 0).setI 4093) (·.bytesAt 4093 3) = some [1, 2, 8] ∧
    errorOf (.storeBcd 0) (State.reset.setI 4094) = some (.addressOutOfBounds 4096) ∧
    errorOf (.storeBcd 0) (State.reset.setI 5000) = some (.addressOutOfBounds 5000) := by decide
theorem test_storeV : after (.storeV 1) ((v01 1 2).setI 0x300) (fun t => (t.bytesAt 0x300 3, t.i)) =
    some ([1, 2, 0], 0x300) := by decide
theorem test_storeV_bounds : after (.storeV 15) ((v01f 7 0 9).setI 4080) (fun t => (t.byteAt 4080, t.byteAt 4095)) =
    some (7, 9) ∧ errorOf (.storeV 15) (State.reset.setI 4081) = some (.addressOutOfBounds 4096) := by decide
theorem test_loadV : after (.loadV 2) ((atI 0x300 [2, 5, 5]).setV 3 8)
    (fun t => (t.getV 0, t.getV 1, t.getV 2, t.getV 3, t.i)) = some (2, 5, 5, 8, 0x300) := by decide
theorem test_loadV_font : after (.loadV 15) State.reset (fun t => (t.getV 4, t.getV 9, t.getV 14, t.getV 15)) =
    some (0xF0, 0x70, 0xF0, 0xF0) ∧ errorOf (.loadV 1) (State.reset.setI 4095) = some (.addressOutOfBounds 4096) := by
  decide
theorem test_clearDisplay : after .clearDisplay (State.reset.setFb (toggleCell State.reset.fb 0 3))
    (fun t => (topRow t, t.pc)) = some ([], 0x202) := by decide
theorem test_draw_wraps : after (.draw 0 1 1) (((atI 0x300 [0xFF]).setV 0 60).setV 1 0) (fun t => (topRow t, t.getV 15)) =
    some ([0, 1, 2, 3, 60, 61, 62, 63], 0) := by decide
theorem test_draw_collides : after (.draw 0 1 1) ((atI 0x300 [0x3C]).setFb
    (blitSprite 64 32 0 0 [0xF0] State.reset.fb).fb) (fun t => (topRow t, t.getV 15)) = some ([0, 1, 4, 5], 1) := by decide
theorem test_draw_bounds : after (.draw 0 1 0) ((v01f 0 0 1).setI 5000) (·.getV 15) = some 0 ∧
    errorOf (.draw 0 1 2) (State.reset.setI 4095) = some (.addressOutOfBounds 4096) := by decide
theorem test_skipKeyPressed : after (.skipKeyPressed 0) ((v01 7 0).setHeld 7 true) (·.pc) = some 0x204 ∧
    errorOf (.skipKeyPressed 0) (v01 16 0) = some (.invalidKeyIndex 16) := by decide
theorem test_skipKeyNotPressed : after (.skipKeyNotPressed 0) (v01 7 0) (·.pc) = some 0x204 ∧
    errorOf (.skipKeyNotPressed 0) (v01 0xFF 0) = some (.invalidKeyIndex 255) := by decide
theorem test_getDelay : after (.getDelay 2) (State.reset.setDt 42) (fun t => (t.getV 2, t.dt)) = some (42, 42) := by decide
theorem test_haltUntilPressed : after (.haltUntilPressed 3) (State.reset.setEdge (some 11)) (fun t => (t.getV 3, t.pc)) =
    some (11, 0x202) ∧ after (.haltUntilPressed 3) (State.reset.setHeld 4 true) (·.pc) = some 0x200 := by decide
theorem test_setDelay : after (.setDelay 4) (State.reset.setV 4 200) (·.dt) = some 200 := by decide
theorem test_setSound : after (.setSound 5) (State.reset.setV 5 3) (·.st) = some 3 := by decide

/-! ## Cycles, commands and the step (2.2, 2.7 to 2.9) -/

theorem test_cycle_at_the_top : issued .cycle ((State.reset.storeBytes 0xFFE [0x60, 0x07]).goto 0xFFE)
    (fun t => (t.getV 0, t.pc)) = ((7, 0x1000), .executed (.setConst 0 7)) := by decide
theorem test_cycle_out_of_bounds : issued .cycle (State.reset.goto 0xFFF) (·.pc) = (0xFFF, .error (.pcOutOfBounds 0xFFF)) := by
  decide
theorem test_cycle_odd : issued .cycle ((State.reset.storeBytes 0x201 [0x61, 0x2A]).goto 0x201) (fun t => (t.getV 1, t.pc)) =
    ((0x2A, 0x203), .executed (.setConst 1 0x2A)) := by decide
theorem test_cycle_unknown_keeps_the_latch : issued .cycle ((program 0xB123).setEdge (some 4)) (fun t => (t.edge, t.pc)) =
    ((some 4, 0x200), .error (.unknownOpcode 0xB123)) := by decide
theorem test_cycle_clears_the_latch : issued .cycle ((program 0x6001).setEdge (some 5)) (fun t => (t.edge, t.getV 0)) =
    ((none, 1), .executed (.setConst 0 1)) := by decide
theorem test_fresh_core_fails : issued .cycle State.reset (·.pc) = (0x200, .error (.unknownOpcode 0x0000)) := by decide
theorem test_tickTimers : issued .tickTimers ((State.reset.setDt 255).setSt 1) (fun t => (t.dt, t.st)) = ((254, 0), .done) ∧
    issued .tickTimers State.reset (fun t => (t.dt, t.st)) = ((0, 0), .done) := by decide
theorem test_setKey_release_keeps_the_latch :
    issued (.setKey 7 false) ((State.reset.setHeld 7 true).setEdge (some 3)) (fun t => (t.isHeld 7, t.edge)) =
      ((false, some 3), .done) := by decide
theorem test_setKey_repeat : issued (.setKey 3 true) (State.reset.setHeld 3 true) (·.edge) = (none, .done) ∧
    issued (.setKey 7 true) State.reset (·.edge) = (some 7, .done) := by decide
theorem test_load : issued (.load [0x11, 0x22]) (State.reset.storeBytes 0x200 [0xAA, 0xBB, 0xCC]) (·.bytesAt 0x200 4) =
    ([0x11, 0x22, 0xCC, 0], .done) := by decide
theorem test_reset_wipes : issued .reset ((program 0x1200).setV 3 9) id = (State.reset, .done) := by decide
theorem test_before_reset : issued .cycle { State.reset with afterReset := false } (·.afterReset) =
    (false, .noMeaning .beforeFirstReset) := by decide
theorem test_font_glyph_A : State.reset.bytesAt 50 5 = [0xF0, 0x90, 0xF0, 0x90, 0x90] := by decide

/-- A word placed for the next step is what the next step runs. -/
theorem test_step_runs_the_placed_word :
    stepped (State.reset.withFetchWord 16 0x6005) (fun t => (t.getV 0, t.pc)) = some (5, 0x202) := by decide

/-- The error codes of 60_exceptions.md R240. -/
theorem test_errorCode : errorCode (.unknownOpcode 0) = .ofCycle 1 ∧ errorCode (.addressOutOfBounds 4096) = .ofCycle 6 ∧
    errorCode (.romTooLarge 3585) = .ofLoad 1 := by decide

/-! ## Witnesses: a state and operands that meet the hypotheses of each statement, at the bounds of its clauses -/

/-- Every instruction gives a next state in one and the same state, so each hypothesis `exec i s = .next t` is met. -/
def ready : State := (State.reset.setSp 1).setEntry 0 0x300

def everyInstruction : List Instr :=
  [.clearDisplay, .ret, .jump 0, .call 0, .skipEqConst 0 0, .skipNeConst 0 0, .skipEqReg 0 0, .setConst 0 0, .addConst 0 0,
   .set 0 0, .or 0 0, .and 0 0, .xor 0 0, .add 0 0, .sub 0 0, .shiftRight 0 0, .subN 0 0] ++
  [.shiftLeft 0 0, .skipNeReg 0 0, .setI 0, .rand 0 0, .draw 0 0 0, .skipKeyPressed 0, .skipKeyNotPressed 0, .getDelay 0,
   .haltUntilPressed 0, .setDelay 0, .setSound 0, .addI 0, .loadFont 0, .storeBcd 0, .storeV 0, .loadV 0]

/-- For OnlyTheNamedInstructionsChangeEachPart, HowEveryInstructionLeavesPc, OnlyTheSixFlagWritersTouchVFAsAFlag. -/
theorem witness_every_instruction_gives_a_next_state :
    everyInstruction.length = 33 ∧ everyInstruction.all (fun i => (after i ready (·.pc)).isSome) = true := by decide

/-- HowEveryInstructionLeavesPc, the stalled and the served wait, and a failed cycle. -/
theorem witness_HowEveryInstructionLeavesPc :
    after (.haltUntilPressed 0) (State.reset.setEdge (some 15)) (·.pc) = some 0x202 ∧
    after (.haltUntilPressed 0) State.reset (·.pc) = some 0x200 ∧
    issued .cycle State.reset (·.pc) = (0x200, .error (.unknownOpcode 0)) := by decide

/-- OnlyTheSixFlagWritersTouchVFAsAFlag: a flag writer, one that is not, and a plain destination VF. -/
theorem witness_OnlyTheSixFlagWritersTouchVFAsAFlag :
    (isFlagWriter (.add 15 15) ∧ ¬ isFlagWriter (.or 0 1) ∧ ¬ hasDestinationVF (.or 0 1)) ∧
    hasDestinationVF (.or 15 1) := ⟨⟨trivial, fun h => h, fun h : (0 : Fin 16) = 15 => by cases h⟩, rfl⟩

theorem witness_WordsMatchTheOpcodeTable :
    (⟨"ClearDisplay", 0xFFFF, 0x00E0⟩ : OpcodeRow) ∈ opcodeTable ∧ decode 0x00E0 = .known .clearDisplay ∧
    decode 0xFF65 = .known (.loadV 15) := by decide

theorem witness_OpcodePatternsAreDisjoint :
    (⟨"LoadV", 0xF0FF, 0xF065⟩ : OpcodeRow) ∈ opcodeTable ∧ (0xFF65 : Word) &&& 0xF0FF = 0xF065 := by decide

/-- One word for each line of the table of R98, at the ends of its ranges. -/
theorem witness_UnknownWordsAreExactlyTheListedOnes :
    [0x0000, 0x00E1, 0x0FFF, 0x5001, 0x5FFF, 0x8008, 0x800D, 0x8FFF, 0x9001, 0x9FFF, 0xB000, 0xBFFF, 0xE000, 0xEFFF, 0xF000,
      0xFFFF].all (fun w : Word => decode w == .unknown w) = true := by decide

/-- An empty script, a listed `cycle`, the highest `pc` that fetches; an instruction that runs and one that fails. -/
theorem witness_StepRunsTheDecodedInstruction :
    let s := (State.reset.storeBytes 0xFFE [0x00, 0xEE]).goto 0xFFE
    let c : State := { program 0x6005 with script := [.cycle, .tickTimers] }
    (s.afterReset = true ∧ s.script = [] ∧ s.pc.toNat = 4094 ∧
      decode (s.byteAt s.pc.toNat ++ s.byteAt (s.pc.toNat + 1)) = .known .ret ∧
      errorOf .ret s = some .stackUnderflow) ∧
    c.afterReset = true ∧ c.script = .cycle :: [.tickTimers] ∧
      decode (c.byteAt c.pc.toNat ++ c.byteAt (c.pc.toNat + 1)) = .known (.setConst 0 5) ∧
      after (.setConst 0 5) { c with script := [.tickTimers] } (·.pc) = some 0x202 := by decide

/-- For CycleExecutesOneInstructionOrReportsOneError and FetchReadsTwoBytesOrPcIsOutOfBounds: `pc` at 4094 and 4095. -/
theorem witness_fetch_bounds :
    State.reset.afterReset = true ∧ State.reset.script = [] ∧
    4094 < (State.reset.goto 4095).pc.toNat ∧ 4094 < (State.reset.goto 0xFFFF).pc.toNat ∧
    fetch (State.reset.goto 4094) = some 0 ∧ decode 0 = .unknown 0 ∧
    fetch (program 0x00EE) = some 0x00EE ∧ decode 0x00EE = .known .ret ∧
    errorOf .ret (program 0x00EE) = some .stackUnderflow ∧
    fetch (program 0x1200) = some 0x1200 ∧ decode 0x1200 = .known (.jump 0x200) ∧
    after (.jump 0x200) (program 0x1200) (·.pc) = some 0x200 := by decide

theorem witness_UnknownWordRaisesUnknownOpcode :
    (program 0xB123).afterReset = true ∧ fetch (program 0xB123) = some 0xB123 ∧ decode 0xB123 = .unknown 0xB123 ∧
    (program 0xB123).script = [] := by decide

theorem witness_BnnnAndOther0nnnAreUnknown : (0x0E1 : Addr12) ≠ 0x0E0 ∧ (0x0E1 : Addr12) ≠ 0x0EE := by decide

/-- For EveryCycleThatSucceedsEmptiesTheKeyLatch, WhatNoCycleDoes and FailedCycleChangesNothingAndRepeats: a cycle that
succeeds and one that fails, each with a full latch; and a cycle of each of the three instructions WhatNoCycleDoes
names. -/
theorem witness_cycles :
    (∃ t, cycle ((program 0x6001).setEdge (some 5)) = .next t) ∧
    issue .cycle ((program 0x00EE).setEdge (some 4)) =
      ((program 0x00EE).setEdge (some 4), .error .stackUnderflow) ∧
    (∃ t, cycle (program 0xF015) = .next t) ∧ (∃ t, cycle (program 0xF018) = .next t) ∧
    ∃ t, cycle (program 0xC0FF) = .next t :=
  ⟨⟨_, rfl⟩, rfl, ⟨_, rfl⟩, ⟨_, rfl⟩, _, rfl⟩

/-- Each line of InstructionErrorsExactly, at the first value that fails and the last that does not. -/
theorem witness_InstructionErrorsExactly :
    errorOf (.draw 0 0 1) (State.reset.setI 4096) = some (.addressOutOfBounds 4096) ∧
    errorOf (.draw 0 0 15) (State.reset.setI 4082) = some (.addressOutOfBounds 4096) ∧
    errorOf (.draw 0 0 15) (State.reset.setI 4081) = none ∧
    errorOf (.storeBcd 0) (State.reset.setI 4094) = some (.addressOutOfBounds 4096) ∧
    errorOf (.storeBcd 0) (State.reset.setI 4093) = none ∧
    errorOf (.storeV 15) (State.reset.setI 4081) = some (.addressOutOfBounds 4096) ∧
    errorOf (.loadV 15) (State.reset.setI 4081) = some (.addressOutOfBounds 4096) ∧
    errorOf (.loadV 15) (State.reset.setI 4080) = none ∧
    errorOf (.skipKeyNotPressed 0) (v01 16 0) = some (.invalidKeyIndex 16) ∧
    errorOf (.skipKeyPressed 0) (v01 15 0) = none := by decide

/-- ReturnPopsThePc: `sp` at 0, 1 and 16. -/
theorem witness_ReturnPopsThePc :
    State.reset.sp = 0 ∧ ready.sp.val = (0 : Fin 16).val + 1 ∧ (State.reset.setSp 16).sp.val = (15 : Fin 16).val + 1 := by
  decide

/-- CallPushesTheReturnAddress and ReturnAfterCallResumesAfterIt: `sp` at 0, 15 and 16. -/
theorem witness_CallPushesTheReturnAddress :
    (State.reset.setSp 16).sp = 16 ∧ State.reset.sp.val = (0 : Fin 16).val ∧
    (State.reset.setSp 15).sp.val = (15 : Fin 16).val ∧ after (.call 0x300) (State.reset.setSp 15) (·.sp) = some 16 := by
  decide

theorem witness_RegisterSkips : (1 : BitVec 4) ≠ 0 ∧ (15 : BitVec 4) ≠ 0 := by decide

/-- ShiftsMoveOnePlace: both shift sources. -/
theorem witness_ShiftsMoveOnePlace :
    ((v01 5 7).params.shiftSource = .vx ∧ 5 = ((v01 5 7).getV 0).toNat) ∧
    (shiftVy (v01 5 7)).params.shiftSource = .vy ∧ 7 = ((shiftVy (v01 5 7)).getV 1).toNat := by decide

/-- The bounds of StoreBcdStoresThreeDigits, StoreVStoresTheBlock and LoadVLoadsTheBlock, on each side. -/
theorem witness_block_bounds :
    (State.reset.setI 4094).i.toNat + 2 > 4095 ∧ (State.reset.setI 4093).i.toNat + 2 ≤ 4095 ∧
    (State.reset.setI 4081).i.toNat + (15 : Reg).val > 4095 ∧ (State.reset.setI 4080).i.toNat + (15 : Reg).val ≤ 4095 ∧
    (State.reset.setI 4096).i.toNat + (0 : Reg).val > 4095 ∧ (State.reset.setI 4095).i.toNat + (0 : Reg).val ≤ 4095 := by
  decide

/-- StoreOverTheNextWordIsFetched (the vector `StoreV V1` at 0x200 with I = 0x202). -/
theorem witness_StoreOverTheNextWordIsFetched :
    let s := (program 0xF155).setI 0x202
    1 ≤ (1 : Reg).val ∧ s.i = s.pc + 2 ∧ s.i.toNat + (1 : Reg).val ≤ 4095 := by decide

/-- DrawTogglesTheCoveredCells: an empty sprite anywhere, the last address that fits, the first that does not, and a
screen of its shape. -/
theorem witness_DrawTogglesTheCoveredCells :
    (0 : Fin 16).val = 0 ∧ (State.reset.setI 4081).i.toNat + (15 : Fin 16).val - 1 ≤ 4095 ∧
    0 < (1 : Fin 16).val ∧ (State.reset.setI 4096).i.toNat + (1 : Fin 16).val - 1 > 4095 ∧ screenOk State.reset := by
  unfold screenOk; decide

/-- DrawingTwiceRestoresTheScreen: the glyph 0 drawn at (V0, V1) of the fresh state; it has a set bit, and every cell it
covers is 0. -/
theorem witness_DrawingTwiceRestoresTheScreen :
    screenOk State.reset ∧ spriteHasSetBit State.reset 5 ∧ (∀ row col, State.reset.cell row col = false) ∧
    ∃ t, exec (.draw 0 1 5) State.reset = .next t ∧ t.params = State.reset.params ∧ t.i = State.reset.i ∧
      t.getV 0 = State.reset.getV 0 ∧ t.getV 1 = State.reset.getV 1 ∧
      ∀ r < 5, t.byteAt (State.reset.i.toNat + r) = State.reset.byteAt (State.reset.i.toNat + r) :=
  ⟨by unfold screenOk; decide, ⟨0, 7, by decide, by decide, by decide⟩, fun _ _ => cellAt_blankScreen _ _ _ _, _, rfl, rfl, rfl, rfl,
    rfl, fun _ _ => rfl⟩

/-- DrawingTwiceRestoresTheScreen: a sprite of zero bytes has no set bit. -/
theorem witness_DrawingTwiceRestoresTheScreen_empty : ¬ spriteHasSetBit (State.reset.setI 0x300) 1 := by
  rintro ⟨r, c, hr, -, hb⟩
  obtain rfl : r = 0 := by omega
  have hz : (State.reset.setI 0x300).byteAt 0x300 = 0 := by decide
  have hb' : ((State.reset.setI 0x300).byteAt 0x300).getLsbD c = true := hb
  rw [hz] at hb'
  simp at hb'

/-- KeySkips: the key index at 15, at 16 and at 255. -/
theorem witness_KeySkips :
    15 < ((v01 16 0).getV 0).toNat ∧ 15 < ((v01 255 0).getV 0).toNat ∧ ((v01 15 0).getV 0).toNat = (15 : Key).val := by
  decide

/-- HaltUntilPressedWaitsForAnEdge: a full and an empty latch, the word at `pc`. -/
theorem witness_HaltUntilPressedWaitsForAnEdge :
    ((program 0xF30A).setEdge (some 15)).edge = some 15 ∧ (program 0xF30A).edge = none ∧
    (program 0xF30A).instrAt = some (.haltUntilPressed 3) ∧
    ((program 0xF30A).setEdge (some 15)).instrAt = some (.haltUntilPressed 3) := by decide

/-- KeyPressIsLostAfterAnotherCycle: the press seen at once (P6 schedule A), and lost (schedule C). -/
theorem witness_KeyPressIsLostAfterAnotherCycle :
    ((program 0xF00A).afterReset = true ∧ (program 0xF00A).isHeld 7 = false) ∧
    (∃ p, runCommand (.setKey 7 true) (program 0xF00A) = .next p ∧ p.instrAt = some (.haltUntilPressed 0)) ∧
    ∃ p t, runCommand (.setKey 7 true) (State.reset.storeBytes 0x200 [0x60, 0x00, 0xF0, 0x0A]) = .next p ∧
      cycle p = .next t ∧ t.instrAt = some (.haltUntilPressed 0) :=
  ⟨⟨rfl, rfl⟩, ⟨_, rfl, rfl⟩, _, _, rfl, rfl, rfl⟩

/-- For TickTimersCountsDownToZero and SetKeyLatchesAnEdge: after the first reset; both readings of a repeated press. -/
theorem witness_host_commands :
    State.reset.afterReset = true ∧ State.reset.isHeld 7 = false ∧ (State.reset.setHeld 7 true).isHeld 7 = true ∧
    ({ State.reset with params := { defaultParams with keyEdgeOnRepeat := true } } : State).params.keyEdgeOnRepeat = true := by
  decide

/-- LoadCopiesOrRejects: 3584 bytes, one more, and none. -/
theorem witness_LoadCopiesOrRejects :
    State.reset.afterReset = true ∧ 3584 < (List.replicate 3585 (0 : Byte)).length ∧
    (List.replicate 3584 (0 : Byte)).length ≤ 3584 ∧ ([] : List Byte).length ≤ 3584 := by
  simp only [List.length_replicate, List.length_nil]; decide

theorem witness_FramebufferShowsTheCellsRowMajor :
    State.reset.afterReset = true ∧ screenOk State.reset ∧ 31 < State.reset.params.displayHeight ∧
    63 < State.reset.params.displayWidth := by unfold screenOk; decide

theorem witness_OnlyResetHasAMeaningBeforeTheFirstReset :
    ({ State.reset with afterReset := false } : State).afterReset = false ∧ Command.cycle ≠ .reset := by decide

/-- EveryStepKeepsTheInvariant and ResetMeetsTheInvariant: a state with the invariant that steps. -/
theorem witness_EveryStepKeepsTheInvariant : Invariant (program 0x1200) ∧ ∃ t, step (program 0x1200) = .next t :=
  ⟨⟨by decide, by decide, by decide, by decide, by decide⟩, _, rfl⟩

theorem witness_ResetMeetsTheInvariant : defaultParams.wf = true := by decide

/-- SelfJumpIsTheEndOfARun: the word 0x1200 at 0x200. -/
theorem witness_SelfJumpIsTheEndOfARun : isFinished (program 0x1200) = true := by decide

end Sys2Proof.Tests
end

section
/-! Proofs about the state (10_state.md). First the laws the obligations share: what an instruction that can fail does
when it does not, which parts an instruction writes, and what that leaves. -/

namespace Sys2Proof.Machine

open Sys2Proof.Statements

/-! ## Instructions with a check, when the check passes -/

section
variable {s t : State}

theorem exec_ret_next (h : exec .ret s = .next t) :
    ∃ k : Fin 16, s.sp.val = k.val + 1 ∧ t = (s.setSp k.castSucc).goto (s.entry k) := by
  obtain ⟨-, e⟩ | ⟨hpos, e⟩ := popThen_cases s fun entry u => .next (u.goto entry)
  · cases e.symm.trans h
  · exact ⟨⟨s.sp.val - 1, by omega⟩, by simp only; omega, (Host.Outcome.next.inj (e.symm.trans h)).symm⟩

theorem exec_call_next {nnn : Addr12} (h : exec (.call nnn) s = .next t) :
    ∃ k : Fin 16, s.sp.val = k.val ∧ t = ((s.setEntry k (s.pc + 2)).setSp k.succ).goto (zext16 nnn) := by
  obtain ⟨-, e⟩ | ⟨hlt, e⟩ := pushThen_cases s (s.pc + 2) fun u => .next (u.goto (zext16 nnn))
  · cases e.symm.trans h
  · exact ⟨⟨s.sp.val, hlt⟩, rfl, (Host.Outcome.next.inj (e.symm.trans h)).symm⟩

theorem exec_skipKeyPressed_next {x : Reg} (h : exec (.skipKeyPressed x) s = .next t) :
    ∃ k : Key, k.val = (s.getV x).toNat ∧ t = s.skipIf (s.isHeld k) := by
  obtain ⟨-, e⟩ | ⟨hlt, e⟩ := withKey_cases s x fun k => .next (s.skipIf (s.isHeld k))
  · cases e.symm.trans h
  · exact ⟨⟨_, hlt⟩, rfl, (Host.Outcome.next.inj (e.symm.trans h)).symm⟩

theorem exec_skipKeyNotPressed_next {x : Reg} (h : exec (.skipKeyNotPressed x) s = .next t) :
    ∃ k : Key, k.val = (s.getV x).toNat ∧ t = s.skipIf (!s.isHeld k) := by
  obtain ⟨-, e⟩ | ⟨hlt, e⟩ := withKey_cases s x fun k => .next (s.skipIf (!s.isHeld k))
  · cases e.symm.trans h
  · exact ⟨⟨_, hlt⟩, rfl, (Host.Outcome.next.inj (e.symm.trans h)).symm⟩

theorem exec_draw_next {x y : Reg} {n : Fin 16} (h : exec (.draw x y n) s = .next t) :
    (n.val = 0 ∨ s.base + n.val ≤ 4096) ∧
    t = ((s.setFb (s.spriteDrawn x y n.val).fb).setV VF (flagByte (s.spriteDrawn x y n.val).collision)).advance := by
  obtain ⟨hr, e⟩ := withRange_next h
  exact ⟨hr, (Host.Outcome.next.inj e).symm⟩

theorem exec_storeBcd_next {x : Reg} (h : exec (.storeBcd x) s = .next t) :
    s.base + 3 ≤ 4096 ∧ t = (s.storeBytes s.base (bcdDigits (s.getV x))).advance := by
  obtain ⟨hr, e⟩ := withRange_next h
  exact ⟨by omega, (Host.Outcome.next.inj e).symm⟩

theorem exec_storeV_next {x : Reg} (h : exec (.storeV x) s = .next t) :
    s.base + (x.val + 1) ≤ 4096 ∧ t = (s.storeBytes s.base (s.regsUpTo x)).advance := by
  obtain ⟨hr, e⟩ := withRange_next h
  exact ⟨by omega, (Host.Outcome.next.inj e).symm⟩

theorem exec_loadV_next {x : Reg} (h : exec (.loadV x) s = .next t) :
    s.base + (x.val + 1) ≤ 4096 ∧ t = (s.setRegs (s.regsLoaded x s.base)).advance := by
  obtain ⟨hr, e⟩ := withRange_next h
  exact ⟨by omega, (Host.Outcome.next.inj e).symm⟩

theorem exec_haltUntilPressed_next {x : Reg} (h : exec (.haltUntilPressed x) s = .next t) :
    (∃ k, s.edge = some k ∧ t = (s.setV x (keyToByte k)).advance) ∨ (s.edge = none ∧ t = s) := by
  simp only [exec, execHaltUntilPressed] at h
  split at h
  · exact .inl ⟨_, ‹_›, (Host.Outcome.next.inj h).symm⟩
  · exact .inr ⟨‹_›, (Host.Outcome.next.inj h).symm⟩

end

/-! ## The frame of an instruction -/

/-- The parts an instruction may write. -/
def writes : Instr → List Part
  | .clearDisplay => [.fb, .pc]
  | .draw _ _ _ => [.v, .fb, .pc]
  | .jump _ | .skipEqConst _ _ | .skipNeConst _ _ | .skipEqReg _ _ | .skipNeReg _ _ | .skipKeyPressed _
  | .skipKeyNotPressed _ => [.pc]
  | .call _ => [.stack, .sp, .pc]
  | .ret => [.sp, .pc]
  | .setConst _ _ | .addConst _ _ | .set _ _ | .or _ _ | .and _ _ | .xor _ _ | .add _ _ | .sub _ _ | .shiftRight _ _
  | .subN _ _ | .shiftLeft _ _ | .getDelay _ | .haltUntilPressed _ | .loadV _ => [.v, .pc]
  | .rand _ _ => [.v, .draws, .pc]
  | .setI _ | .addI _ | .loadFont _ => [.i, .pc]
  | .setDelay _ => [.dt, .pc]
  | .setSound _ => [.st, .pc]
  | .storeBcd _ | .storeV _ => [.mem, .pc]

/-- `s` with the listed parts taken from `t`. -/
def State.patched (s : State) (ps : List Part) (t : State) : State where
  v := if .v ∈ ps then t.v else s.v
  i := if .i ∈ ps then t.i else s.i
  pc := if .pc ∈ ps then t.pc else s.pc
  stack := if .stack ∈ ps then t.stack else s.stack
  sp := if .sp ∈ ps then t.sp else s.sp
  dt := if .dt ∈ ps then t.dt else s.dt
  st := if .st ∈ ps then t.st else s.st
  held := if .held ∈ ps then t.held else s.held
  edge := if .edge ∈ ps then t.edge else s.edge
  fb := if .fb ∈ ps then t.fb else s.fb
  mem := if .mem ∈ ps then t.mem else s.mem
  params := if .params ∈ ps then t.params else s.params
  draws := if .draws ∈ ps then t.draws else s.draws
  script := if .script ∈ ps then t.script else s.script
  afterReset := if .afterReset ∈ ps then t.afterReset else s.afterReset

/-- The next state differs from the state before in the parts the instruction writes and in no other field. -/
theorem exec_patched {i : Instr} {s t : State} (h : exec i s = .next t) : t = s.patched (writes i) t := by
  cases i with
  | ret => obtain ⟨k, -, rfl⟩ := exec_ret_next h; rfl
  | call nnn => obtain ⟨k, -, rfl⟩ := exec_call_next h; rfl
  | draw x y n => obtain ⟨-, rfl⟩ := exec_draw_next h; rfl
  | skipKeyPressed x => obtain ⟨k, -, rfl⟩ := exec_skipKeyPressed_next h; rfl
  | skipKeyNotPressed x => obtain ⟨k, -, rfl⟩ := exec_skipKeyNotPressed_next h; rfl
  | storeBcd x => obtain ⟨-, rfl⟩ := exec_storeBcd_next h; rfl
  | storeV x => obtain ⟨-, rfl⟩ := exec_storeV_next h; rfl
  | loadV x => obtain ⟨-, rfl⟩ := exec_loadV_next h; rfl
  | haltUntilPressed x => obtain ⟨k, -, rfl⟩ | ⟨-, rfl⟩ := exec_haltUntilPressed_next h <;> rfl
  | _ => obtain rfl := Host.Outcome.next.inj h; rfl

/-- The parts no instruction writes; the latch is among them, which only the common tail empties. -/
theorem notMem_writes (i : Instr) : ∀ part ∈ [Part.held, .edge, .params, .script, .afterReset], part ∉ writes i := by
  cases i <;> simp [writes]

theorem unchangedBut_of_eq_patched {s t : State} {ps : List Part} (hp : .params ∉ ps) (h : t = s.patched ps t) :
    unchangedBut ps s t := by
  intro part hpart
  rw [h]
  cases part <;>
    simp [samePart, State.patched, State.getV, State.isHeld, State.entry, State.byteAt, hp, hpart]

/-- The frame of every instruction: it leaves every part it does not write. -/
theorem exec_frame {i : Instr} {s t : State} (h : exec i s = .next t) : unchangedBut (writes i) s t :=
  unchangedBut_of_eq_patched (notMem_writes i _ (by simp)) (exec_patched h)

theorem mem_mem_writes {i : Instr} (h : .mem ∈ writes i) : ∃ x, i = .storeBcd x ∨ i = .storeV x := by
  cases i <;> simp_all [writes]

theorem fb_mem_writes {i : Instr} (h : .fb ∈ writes i) : i = .clearDisplay ∨ ∃ x y n, i = .draw x y n := by
  cases i <;> simp_all [writes]

theorem i_mem_writes {i : Instr} (h : .i ∈ writes i) : (∃ nnn, i = .setI nnn) ∨ ∃ x, i = .addI x ∨ i = .loadFont x := by
  cases i <;> simp_all [writes]

theorem stack_mem_writes {i : Instr} (h : .stack ∈ writes i) : ∃ nnn, i = .call nnn := by
  cases i <;> simp_all [writes]

theorem sp_mem_writes {i : Instr} (h : .sp ∈ writes i) : i = .ret ∨ ∃ nnn, i = .call nnn := by
  cases i <;> simp_all [writes]

theorem dt_mem_writes {i : Instr} (h : .dt ∈ writes i) : ∃ x, i = .setDelay x := by
  cases i <;> simp_all [writes]

theorem st_mem_writes {i : Instr} (h : .st ∈ writes i) : ∃ x, i = .setSound x := by
  cases i <;> simp_all [writes]

theorem draws_mem_writes {i : Instr} (h : .draws ∈ writes i) : ∃ x kk, i = .rand x kk := by
  cases i <;> simp_all [writes]

theorem unchangedBut.same_or {s t : State} {ps : List Part} (h : unchangedBut ps s t) {part : Part} {q : Prop}
    (hq : part ∈ ps → q) : samePart s t part ∨ q := by
  by_cases hm : part ∈ ps
  · exact .inr (hq hm)
  · exact .inl (h part hm)

/-- Settles O18, part by part from the frame of every instruction. -/
theorem onlyTheNamedInstructionsChangeEachPart : Obligations.OnlyTheNamedInstructionsChangeEachPart := by
  intro i s t h
  have frame := exec_frame h
  have never := fun part hp => frame part (notMem_writes i part hp)
  exact ⟨frame.same_or mem_mem_writes, frame.same_or fb_mem_writes, frame.same_or i_mem_writes,
    frame.same_or stack_mem_writes, frame.same_or sp_mem_writes, frame.same_or dt_mem_writes,
    frame.same_or st_mem_writes, frame.same_or draws_mem_writes, never .held (by simp), never .edge (by simp),
    never .params (by simp), never .script (by simp), never .afterReset (by simp)⟩

/-! ## The program counter -/

theorem exec_pcAfter {i : Instr} {s t : State} (h : exec i s = .next t) : pcAfter i s t := by
  cases i with
  | ret =>
    obtain ⟨k, hk, rfl⟩ := exec_ret_next h
    exact ⟨k, hk, rfl⟩
  | call nnn =>
    obtain ⟨k, -, rfl⟩ := exec_call_next h
    exact zext16_toNat nnn
  | jump nnn =>
    obtain rfl := Host.Outcome.next.inj h
    exact zext16_toNat nnn
  | skipEqConst x kk | skipNeConst x kk | skipEqReg x y | skipNeReg x y =>
    obtain rfl := Host.Outcome.next.inj h
    simp [pcAfter]
  | skipKeyPressed x =>
    obtain ⟨k, hk, rfl⟩ := exec_skipKeyPressed_next h
    exact ⟨k, hk, rfl⟩
  | skipKeyNotPressed x =>
    obtain ⟨k, hk, rfl⟩ := exec_skipKeyNotPressed_next h
    refine ⟨k, hk, ?_⟩
    cases s.isHeld k <;> simp
  | haltUntilPressed x =>
    obtain ⟨k, he, rfl⟩ | ⟨he, rfl⟩ := exec_haltUntilPressed_next h <;> simp [pcAfter, he]
  | draw x y n => obtain ⟨-, rfl⟩ := exec_draw_next h; rfl
  | storeBcd x => obtain ⟨-, rfl⟩ := exec_storeBcd_next h; rfl
  | storeV x => obtain ⟨-, rfl⟩ := exec_storeV_next h; rfl
  | loadV x => obtain ⟨-, rfl⟩ := exec_loadV_next h; rfl
  | _ => obtain rfl := Host.Outcome.next.inj h; rfl

theorem okReply_ne_error (c : Command) (s : State) (f : Fault) : okReply c s ≠ .error f := by
  cases c with
  | cycle => cases hi : s.instrAt <;> simp [okReply, hi]
  | _ => simp [okReply]

/-- A command that answers an error leaves the state as it was (40_execution_cycle.md R128). -/
theorem issue_error {c : Command} {s t : State} {f : Fault} (h : issue c s = (t, .error f)) :
    t = s ∧ runCommand c s = .fault f := by
  unfold issue at h
  cases hr : runCommand c s <;> simp_all [okReply_ne_error]

/-- Settles O17: instruction by instruction, and a command that answers an error leaves its whole state. -/
theorem howEveryInstructionLeavesPc : Obligations.HowEveryInstructionLeavesPc :=
  ⟨fun _ _ _ => exec_pcAfter, fun _ _ _ h => congrArg State.pc (issue_error h).1⟩

/-! ## The flag -/

theorem exec_flagWriter_VF {i : Instr} {s t : State} (hf : isFlagWriter i) (h : exec i s = .next t) :
    ∃ b, t.getV VF = flagByte b := by
  cases i with
  | add x y | sub x y | subN x y | shiftRight x y | shiftLeft x y =>
    obtain rfl := Host.Outcome.next.inj h
    exact ⟨_, State.getV_setV_same _ VF _⟩
  | draw x y n =>
    obtain ⟨-, rfl⟩ := exec_draw_next h
    exact ⟨_, State.getV_setV_same _ VF _⟩
  | _ => exact hf.elim

theorem exec_VF_unchanged {i : Instr} {s t : State} (hf : ¬ isFlagWriter i) (hd : ¬ hasDestinationVF i)
    (h : exec i s = .next t) : t.getV 15 = s.getV 15 := by
  by_cases hv : .v ∉ writes i
  · exact exec_frame h .v hv 15
  cases i with
  | setConst x kk | addConst x kk | set x y | or x y | and x y | xor x y | getDelay x | rand x kk =>
    obtain rfl := Host.Outcome.next.inj h
    exact State.getV_setV_other _ (Ne.symm hd) _
  | haltUntilPressed x =>
    obtain ⟨k, -, rfl⟩ | ⟨-, rfl⟩ := exec_haltUntilPressed_next h
    · exact State.getV_setV_other _ (Ne.symm hd) _
    · rfl
  | loadV x =>
    obtain ⟨-, rfl⟩ := exec_loadV_next h
    have hx : ¬ 15 ≤ x := fun hle => hd (le_antisymm (Fin.le_last x) hle)
    simp [State.regsLoaded_get, hx]
  | _ => simp [writes, isFlagWriter] at hv hf

/-- Settles O19: the flag is written last, and a plain destination writes no other register. -/
theorem onlyTheSixFlagWritersTouchVFAsAFlag : Obligations.OnlyTheSixFlagWritersTouchVFAsAFlag := by
  intro i s t h
  refine ⟨fun hf => ?_, fun hf hd => exec_VF_unchanged hf hd h⟩
  obtain ⟨b, hb⟩ := exec_flagWriter_VF hf h
  exact hb ▸ flagByte_eq b

/-! ## Before the first reset -/

theorem runCommand_beforeFirstReset {s : State} {c : Command} (hs : s.afterReset = false) (hc : c ≠ .reset) :
    runCommand c s = .refused .beforeFirstReset := by
  cases c with
  | reset => exact absurd rfl hc
  | _ => simp [runCommand, hs, Command.isReset]

theorem runCommand_reset (s : State) : runCommand .reset s = commandReset s := by
  simp [runCommand, Command.isReset]

/-- Settles O50: the guard of a command fails on every command but `reset`. -/
theorem onlyResetHasAMeaningBeforeTheFirstReset : Obligations.OnlyResetHasAMeaningBeforeTheFirstReset := by
  intro s c hs
  refine ⟨fun hc => ?_, _, runCommand_reset s, rfl⟩
  have hr := runCommand_beforeFirstReset hs hc
  exact ⟨hr, by simp [issue, hr]⟩

/-! ## The invariant -/

theorem invariant_resetWith {p : Params} (hp : p.wf = true) : Invariant (State.resetWith p) where
  memory := Memory.wf_resetWith p
  screen := screenShaped_blankScreen _ _
  params := hp
  pc := by simp [State.resetWith]
  stack k := by simp [State.entry, State.resetWith, Vector.get_eq_getElem]

/-- Settles O52: the default parameters are among the allowed ones. -/
theorem resetMeetsTheInvariant : Obligations.ResetMeetsTheInvariant :=
  ⟨invariant_resetWith (by decide), fun _ => invariant_resetWith⟩

/-- The invariant speaks of five fields only. -/
theorem Invariant.of_fields {s t : State} (hi : Invariant s) (hmem : t.mem = s.mem) (hfb : t.fb = s.fb)
    (hparams : t.params = s.params) (hpc : t.pc = s.pc) (hstack : t.stack = s.stack) : Invariant t where
  memory := by rw [hparams, hmem]; exact hi.memory
  screen := by rw [hparams, hfb]; exact hi.screen
  params := by rw [hparams]; exact hi.params
  pc := by rw [hpc]; exact hi.pc
  stack k := by rw [State.entry, hstack]; exact hi.stack k

section
variable {i : Instr} {s t : State}

theorem exec_params (h : exec i s = .next t) : t.params = s.params :=
  exec_frame h .params (notMem_writes i _ (by simp))

/-- An instruction keeps the canonical form: its check keeps what it stores below 4096 (20_memory.md R69). -/
theorem exec_keeps_memory (hm : s.mem.wf s.params = true) (h : exec i s = .next t) :
    t.mem.wf t.params = true := by
  rw [exec_params h]
  by_cases hw : .mem ∈ writes i
  · obtain ⟨x, rfl | rfl⟩ := mem_mem_writes hw
    · obtain ⟨hr, rfl⟩ := exec_storeBcd_next h
      exact Memory.wf_writeBytes _ _ _ _ hr hm
    · obtain ⟨hr, rfl⟩ := exec_storeV_next h
      exact Memory.wf_writeBytes _ _ _ _ (by rwa [State.regsUpTo_length]) hm
  · have hsame : t.mem = s.mem := by rw [exec_patched h]; exact if_neg hw
    rwa [hsame]

theorem exec_keeps_screen (hs : screenShaped s.params.displayWidth s.params.displayHeight s.fb = true)
    (h : exec i s = .next t) : screenShaped t.params.displayWidth t.params.displayHeight t.fb = true := by
  rw [exec_params h]
  by_cases hw : .fb ∈ writes i
  · obtain rfl | ⟨x, y, n, rfl⟩ := fb_mem_writes hw
    · obtain rfl := Host.Outcome.next.inj h
      exact screenShaped_blankScreen _ _
    · obtain ⟨-, rfl⟩ := exec_draw_next h
      exact screenShaped_blitSprite _ _ _ _ _ _ hs
  · rwa [exec_frame h .fb hw]

/-- The pushed return address is at most 4096, since a fetched instruction lies at 4094 or below (10_state.md R27). -/
theorem exec_keeps_stack (hpc : s.pc.toNat ≤ 4094) (hk : ∀ k : Fin 16, (s.entry k).toNat ≤ 4096)
    (h : exec i s = .next t) (k : Fin 16) : (t.entry k).toNat ≤ 4096 := by
  by_cases hw : .stack ∈ writes i
  · obtain ⟨nnn, rfl⟩ := stack_mem_writes hw
    obtain ⟨j, -, rfl⟩ := exec_call_next h
    have hret : (s.pc + 2).toNat ≤ 4096 := by bv_omega
    simp only [State.entry_goto, State.entry_setSp, State.entry_setEntry]
    split
    · exact hret
    · exact hk k
  · exact (exec_frame h .stack hw k).symm ▸ hk k

/-- From an instruction at 4094 or below, `pc` comes to 0x1002 at most (10_state.md R27): a skip adds 4, a jump target
has 12 bits, a popped entry is at most 4096. -/
theorem pc_le_of_pcAfter (hpc : s.pc.toNat ≤ 4094) (hk : ∀ k : Fin 16, (s.entry k).toNat ≤ 4096)
    (h : pcAfter i s t) : t.pc.toNat ≤ 0x1002 := by
  have h2 : (s.pc + 2).toNat ≤ 0x1002 := by bv_omega
  have h4 : (s.pc + 4).toNat ≤ 0x1002 := by bv_omega
  cases i with
  | jump nnn | call nnn =>
    have hlt := nnn.isLt
    have htgt : t.pc.toNat = nnn.toNat := h
    omega
  | ret =>
    obtain ⟨k, -, hpop⟩ := h
    have hle := hk k
    rw [hpop]; omega
  | skipEqConst | skipNeConst | skipEqReg | skipNeReg =>
    rw [show t.pc = _ from h]
    split <;> assumption
  | skipKeyPressed | skipKeyNotPressed =>
    obtain ⟨k, -, hskip⟩ := h
    rw [hskip]
    split <;> assumption
  | haltUntilPressed =>
    rw [show t.pc = _ from h]
    split
    · exact h2
    · omega
  | _ => rw [show t.pc = _ from h]; exact h2

/-- An instruction fetched at 4094 or below keeps the invariant. -/
theorem exec_keeps_invariant (hi : Invariant s) (hpc : s.pc.toNat ≤ 4094) (h : exec i s = .next t) : Invariant t where
  memory := exec_keeps_memory hi.memory h
  screen := exec_keeps_screen hi.screen h
  params := by rw [exec_params h]; exact hi.params
  pc := pc_le_of_pcAfter hpc hi.stack (exec_pcAfter h)
  stack := exec_keeps_stack hpc hi.stack h

end

theorem cycle_keeps_invariant {s t : State} (hi : Invariant s) (h : cycle s = .next t) : Invariant t := by
  obtain ⟨w, i, u, hw, -, hu, rfl⟩ := cycle_next h
  have hpc := (fetch_eq_some hw).1
  exact (exec_keeps_invariant hi hpc hu).of_fields rfl rfl rfl rfl rfl

theorem runCommand_keeps_invariant {c : Command} {s t : State} (hi : Invariant s) (h : runCommand c s = .next t) :
    Invariant t := by
  obtain ⟨-, rfl⟩ | ⟨rom, -, hlen, rfl⟩ | ⟨-, hc⟩ | ⟨-, rfl⟩ | ⟨k, b, -, rfl | rfl⟩ | ⟨-, rfl⟩ := runCommand_next h
  · exact (invariant_resetWith hi.params).of_fields rfl rfl rfl rfl rfl
  · have hm := Memory.wf_writeBytes s.params s.mem 0x200 rom (by omega) hi.memory
    exact ⟨hm, hi.screen, hi.params, hi.pc, hi.stack⟩
  · exact cycle_keeps_invariant hi hc
  · exact hi.of_fields rfl rfl rfl rfl rfl
  · exact hi.of_fields rfl rfl rfl rfl rfl
  · exact hi.of_fields rfl rfl rfl rfl rfl
  · exact hi

/-- Settles O51: each part of the invariant is kept by the instructions, and by each of the six commands. -/
theorem everyStepKeepsTheInvariant : Obligations.EveryStepKeepsTheInvariant := by
  intro s t hi h
  obtain ⟨-, hc⟩ | ⟨c, rest, -, hc⟩ := step_next h
  · exact runCommand_keeps_invariant hi hc
  · have hrest : Invariant { s with script := rest } := hi.of_fields rfl rfl rfl rfl rfl
    exact runCommand_keeps_invariant hrest hc

/-! ## The sound timer

The relation `agreeButSound` passes through every operation that continues with a result, so that it holds of an
instruction, a cycle, a command and a step on two states that differ in ST only. -/

theorem agreeButSound_refl (r : Result) : agreeButSound r r := by cases r <;> rfl

theorem agreeButSound_next {t u : State} (h : t.setSt 0 = u.setSt 0) : agreeButSound (.next t) (.next u) := h

theorem agreeButSound_ite {c : Prop} [Decidable c] {r r' q q' : Result} (h : agreeButSound r r')
    (h' : agreeButSound q q') : agreeButSound (if c then r else q) (if c then r' else q') := by
  split
  · exact h
  · exact h'

theorem agreeButSound_dite {c : Prop} [Decidable c] {r r' : c → Result} {q q' : ¬ c → Result}
    (h : ∀ hc, agreeButSound (r hc) (r' hc)) (h' : ∀ hc, agreeButSound (q hc) (q' hc)) :
    agreeButSound (dite c r q) (dite c r' q') := by
  split
  · exact h _
  · exact h' _

theorem agreeButSound_withRange {base count : Nat} {r q : Result} (h : agreeButSound r q) :
    agreeButSound (withRange base count r) (withRange base count q) :=
  agreeButSound_ite (agreeButSound_refl _) h

theorem agreeButSound_commonTail {r q : Result} (h : agreeButSound r q) :
    agreeButSound (commonTail r) (commonTail q) := by
  match r, q, h with
  | .next t, .next u, h => exact congrArg (State.setEdge · none) h
  | .fault _, .fault _, h => exact h
  | .refused _, .refused _, h => exact h

section
variable (s : State) (b : Byte)

theorem agreeButSound_pushThen (ret : Word) {k : State → Result} (hk : ∀ t, agreeButSound (k t) (k (t.setSt b))) :
    agreeButSound (pushThen s ret k) (pushThen (s.setSt b) ret k) :=
  agreeButSound_dite (fun _ => hk _) fun _ => agreeButSound_refl _

theorem agreeButSound_popThen {k : Word → State → Result} (hk : ∀ w t, agreeButSound (k w t) (k w (t.setSt b))) :
    agreeButSound (popThen s k) (popThen (s.setSt b) k) :=
  agreeButSound_dite (fun _ => hk _ _) fun _ => agreeButSound_refl _

theorem agreeButSound_withKey (x : Reg) {k l : Key → Result} (hk : ∀ j, agreeButSound (k j) (l j)) :
    agreeButSound (withKey s x k) (withKey (s.setSt b) x l) :=
  agreeButSound_dite (fun _ => hk _) fun _ => agreeButSound_refl _

theorem exec_agreeButSound (i : Instr) : agreeButSound (exec i s) (exec i (s.setSt b)) := by
  cases i with
  | ret =>
    simp only [exec, execReturn]
    exact agreeButSound_popThen s b fun _ _ => agreeButSound_next rfl
  | call nnn =>
    simp only [exec, execCall, State.setSt_pc]
    exact agreeButSound_pushThen s b _ fun _ => agreeButSound_next rfl
  | skipKeyPressed x | skipKeyNotPressed x =>
    simp only [exec, execSkipKeyPressed, execSkipKeyNotPressed]
    exact agreeButSound_withKey s b x fun _ => agreeButSound_next rfl
  | draw | storeBcd | storeV | loadV => exact agreeButSound_withRange (agreeButSound_next rfl)
  | haltUntilPressed x =>
    cases he : s.edge <;> simp only [exec, execHaltUntilPressed, State.setSt_edge, he] <;>
      exact agreeButSound_next rfl
  | _ => exact agreeButSound_next rfl

theorem cycle_agreeButSound : agreeButSound (cycle s) (cycle (s.setSt b)) := by
  unfold cycle
  rw [show fetch (s.setSt b) = fetch s from rfl]
  cases fetch s with
  | none => exact agreeButSound_refl _
  | some w =>
    cases hd : decode w with
    | known i => simpa only [hd] using agreeButSound_commonTail (exec_agreeButSound s b i)
    | unknown u => simpa only [hd] using agreeButSound_refl _

theorem runCommand_agreeButSound (c : Command) : agreeButSound (runCommand c s) (runCommand c (s.setSt b)) := by
  refine agreeButSound_ite ?_ (agreeButSound_refl _)
  cases c with
  | cycle => exact cycle_agreeButSound s b
  | load rom => exact agreeButSound_ite (agreeButSound_next rfl) (agreeButSound_refl _)
  | setKey k pressed =>
    refine agreeButSound_next ?_
    by_cases hlatch : (pressed && (!s.isHeld k || s.params.keyEdgeOnRepeat)) = true <;>
      simp only [State.isHeld_setSt, State.setSt_params, hlatch] <;> rfl
  | reset | tickTimers | framebuffer => exact agreeButSound_next rfl

end

/-- Settles O20: a step is one command, and every command agrees. -/
theorem nothingDependsOnTheSoundTimer : Obligations.NothingDependsOnTheSoundTimer := by
  intro s b
  unfold step
  rw [State.setSt_script]
  cases s.script with
  | nil => exact runCommand_agreeButSound s b .cycle
  | cons c rest => exact runCommand_agreeButSound { s with script := rest } b c

end Sys2Proof.Machine
end

section
/-! Proofs about memory (20_memory.md): what a block store of registers leaves in memory, and that the next fetch reads
it. -/

namespace Sys2Proof.Machine

open Sys2Proof.Statements

section
variable (s : State)

/-- `StoreV` on a block that lies in memory (43_index_memory.md R184). -/
theorem exec_storeV_of_le {x : Reg} (h : s.base + (x.val + 1) ≤ 4096) :
    exec (.storeV x) s = .next (s.storeBytes s.base (s.regsUpTo x)).advance :=
  withRange_of_le h _

theorem State.byteAt_storeBytes_regsUpTo (a : Nat) {x r : Reg} (h : r ≤ x) :
    (s.storeBytes a (s.regsUpTo x)).byteAt (a + r.val) = s.getV r := by
  have hin : a ≤ a + r.val ∧ a + r.val < a + (s.regsUpTo x).length := by
    have hrx : r.val ≤ x.val := h
    rw [State.regsUpTo_length]
    omega
  rw [State.byteAt_storeBytes, if_pos hin, Nat.add_sub_cancel_left, State.regsUpTo_getD s x r h]

/-- A fetch at an address whose two bytes lie in memory (40_execution_cycle.md R121). -/
theorem fetch_of_le (h : s.pc.toNat ≤ 4094) :
    fetch s = some (wordOfBytes (s.byteAt s.pc.toNat) (s.byteAt (s.pc.toNat + 1))) :=
  if_pos h

end

/-- Settles O37: the store leaves `pc` at `I`, so the two fetched bytes are the first two of the stored block. -/
theorem storeOverTheNextWordIsFetched : Obligations.StoreOverTheNextWordIsFetched := by
  intro x s hx hi hle
  have hstore := exec_storeV_of_le s (x := x) (show s.i.toNat + (x.val + 1) ≤ 4096 by omega)
  refine ⟨_, hstore, ?_⟩
  set t := (s.storeBytes s.base (s.regsUpTo x)).advance
  have hpc : t.pc = s.i := hi.symm
  have hhigh : t.byteAt s.i.toNat = s.getV 0 := s.byteAt_storeBytes_regsUpTo s.base (Fin.zero_le x)
  have hlow : t.byteAt (s.i.toNat + 1) = s.getV 1 := s.byteAt_storeBytes_regsUpTo s.base (r := 1) hx
  refine ⟨_, fetch_of_le t (by rw [hpc]; omega), ?_⟩
  rw [wordOfBytes_toNat, hpc, hhigh, hlow]

end Sys2Proof.Machine
end

section
/-! Proofs about the encoding (30_encoding.md): the decoder undoes the encoder, a decoded variant gives its word back,
which words decode to `Unknown`, and the rows of the opcode table. -/

namespace Sys2Proof

/-! ## The decoder undoes the encoder -/

/-- Each format gives back its opcode and its free fields, and the selecting field picks the arm (R95). -/
theorem decode_encode (i : Instr) : decode (encode i) = .known i := by
  cases i with
  | clearDisplay | ret => decide
  | jump | call | setI | skipEqConst | skipNeConst | setConst | addConst | rand | draw => simp [encode, decode]
  | skipEqReg | skipNeReg => simp [encode, decode]
  | set | or | and | xor | add | sub | shiftRight | subN | shiftLeft => simp [encode, decode, decodeFamily8]
  | skipKeyPressed | skipKeyNotPressed => simp [encode, decode, decodeFamilyE]
  | getDelay | haltUntilPressed | setDelay | setSound | addI | loadFont | storeBcd | storeV | loadV =>
    simp [encode, decode, decodeFamilyF]

/-- Settles O1: the two stored bytes make the word again, and the decoder undoes the encoder. -/
theorem decodeOfEncodeIsTheInstruction : Obligations.DecodeOfEncodeIsTheInstruction := by
  intro i rest
  obtain ⟨hi, lo, hbytes, hword⟩ := bytesOfWord_eq (encode i)
  simp [encodeBytes, hbytes, decodeBytes, hword, decode_encode]

/-- Settles O5: twelve fixed words, decoded by evaluation. -/
theorem sampleWordsDecode : Obligations.SampleWordsDecode := by
  unfold Obligations.SampleWordsDecode
  decide

/-! ## The fields of a word as numbers (R91), and a word put together again from its fields -/

section
variable {w : Word}

theorem toNat_fieldOp (w : Word) : (fieldOp w).toNat = w.toNat / 4096 := by
  have := w.isLt
  simp only [fieldOp, BitVec.extractLsb'_toNat, Nat.shiftRight_eq_div_pow]
  omega

theorem val_fieldN (w : Word) : (fieldN w).val = w.toNat % 16 := by
  simp [fieldN]

theorem toNat_fieldKk (w : Word) : (fieldKk w).toNat = w.toNat % 256 := by
  simp [fieldKk]

theorem formatA_fields {op : BitVec 4} (hop : (fieldOp w).toNat = op.toNat) : formatA op (fieldNnn w) = w := by
  apply BitVec.eq_of_toNat_eq
  rw [formatA, toNat_append_eq, ← hop, toNat_fieldOp]
  simp only [fieldNnn, BitVec.extractLsb'_toNat, Nat.shiftRight_eq_div_pow]
  omega

theorem nibble_fieldX_append_fieldKk (w : Word) : nibble (fieldX w) ++ fieldKk w = fieldNnn w := by
  apply BitVec.eq_of_toNat_eq
  simp only [nibble, fieldX, fieldKk, fieldNnn, toNat_append_eq, BitVec.ofFin_toFin, BitVec.extractLsb'_toNat,
    Nat.shiftRight_eq_div_pow]
  omega

theorem nibble_fieldY_append_fieldN (w : Word) : nibble (fieldY w) ++ nibble (fieldN w) = fieldKk w := by
  apply BitVec.eq_of_toNat_eq
  simp only [nibble, fieldY, fieldN, fieldKk, toNat_append_eq, BitVec.ofFin_toFin, BitVec.extractLsb'_toNat,
    Nat.shiftRight_eq_div_pow]
  omega

theorem formatXK_fields {op : BitVec 4} (hop : (fieldOp w).toNat = op.toNat) :
    formatXK op (fieldX w) (fieldKk w) = w := by
  rw [formatXK, nibble_fieldX_append_fieldKk]
  exact formatA_fields hop

theorem formatXS_fields {op : BitVec 4} {sel : BitVec 8} (hop : (fieldOp w).toNat = op.toNat)
    (hkk : (fieldKk w).toNat = sel.toNat) : formatXS op (fieldX w) sel = w := by
  rw [← BitVec.eq_of_toNat_eq hkk]
  exact formatXK_fields hop

theorem formatXYN_fields {op : BitVec 4} (hop : (fieldOp w).toNat = op.toNat) :
    formatXYN op (fieldX w) (fieldY w) (fieldN w) = w := by
  rw [formatXYN, nibble_fieldY_append_fieldN]
  exact formatXK_fields hop

theorem formatXY_fields {op sel : BitVec 4} (hop : (fieldOp w).toNat = op.toNat) (hn : (fieldN w).val = sel.toNat) :
    formatXY op (fieldX w) (fieldY w) sel = w := by
  have hsel : fieldN w = sel.toFin := Fin.ext hn
  have h := formatXYN_fields hop
  rwa [hsel] at h

end

/-! ## A decoded variant gives its word back (R94, R95) -/

/-- The word a variant stands for: the encoding of an instruction, or the raw word `Unknown` carries. -/
def Variant.word : Variant → Word
  | .known i => encode i
  | .unknown w => w

section
variable {w : Word}

theorem word_decodeFamily0 (w : Word) : (decodeFamily0 w).word = w := by
  unfold decodeFamily0
  split
  · next h => exact h.symm
  · split
    · next h => exact h.symm
    · rfl

theorem word_decodeFamily8 (hop : (fieldOp w).toNat = 0x8) : (decodeFamily8 w).word = w := by
  unfold decodeFamily8
  split
  case h_10 => rfl
  all_goals exact formatXY_fields hop ‹_›

theorem word_decodeFamilyE (hop : (fieldOp w).toNat = 0xE) : (decodeFamilyE w).word = w := by
  unfold decodeFamilyE
  split
  case h_3 => rfl
  all_goals exact formatXS_fields hop ‹_›

theorem word_decodeFamilyF (hop : (fieldOp w).toNat = 0xF) : (decodeFamilyF w).word = w := by
  unfold decodeFamilyF
  split
  case h_10 => rfl
  all_goals exact formatXS_fields hop ‹_›

theorem word_ite_fieldN {i : Instr} (h : fieldN w = 0 → encode i = w) :
    (if fieldN w = 0 then Variant.known i else .unknown w).word = w := by
  split
  · next hn => exact h hn
  · rfl

/-- One case per opcode, in the order of R95: the operands of its format are the bits the opcode and selector leave. -/
theorem word_decode (w : Word) : (decode w).word = w := by
  unfold decode
  split
  · exact word_decodeFamily0 w
  · exact formatA_fields ‹_›
  · exact formatA_fields ‹_›
  · exact formatXK_fields ‹_›
  · exact formatXK_fields ‹_›
  · exact word_ite_fieldN fun hn => formatXY_fields ‹_› (congrArg Fin.val hn)
  · exact formatXK_fields ‹_›
  · exact formatXK_fields ‹_›
  · exact word_decodeFamily8 ‹_›
  · exact word_ite_fieldN fun hn => formatXY_fields ‹_› (congrArg Fin.val hn)
  · exact formatA_fields ‹_›
  · exact formatXK_fields ‹_›
  · exact formatXYN_fields ‹_›
  · exact word_decodeFamilyE ‹_›
  · exact word_decodeFamilyF ‹_›
  · rfl

theorem encode_of_decode {i : Instr} (h : decode w = .known i) : encode i = w := by
  simpa [h, Variant.word] using word_decode w

theorem eq_of_decode_eq_unknown {u : Word} (h : decode w = .unknown u) : u = w := by
  simpa [h, Variant.word] using word_decode w

end

/-! ## The words that decode to `Unknown` (R98) -/

theorem decodeFamily0_eq_unknown_iff (w : Word) : decodeFamily0 w = .unknown w ↔ w ≠ 0x00E0 ∧ w ≠ 0x00EE := by
  unfold decodeFamily0
  split_ifs with hE0 hEE
  · simp [hE0]
  · simp [hEE]
  · exact iff_of_true rfl ⟨hE0, hEE⟩

theorem decodeFamily8_eq_unknown_iff (w : Word) : decodeFamily8 w = .unknown w ↔
    (fieldN w).val ∈ [8, 9, 0xA, 0xB, 0xC, 0xD, 0xF] := by
  unfold decodeFamily8
  generalize fieldN w = n
  fin_cases n <;> simp

theorem decodeFamilyE_eq_unknown_iff (w : Word) : decodeFamilyE w = .unknown w ↔
    (fieldKk w).toNat ∉ [0x9E, 0xA1] := by
  unfold decodeFamilyE
  split <;> simp_all

theorem decodeFamilyF_eq_unknown_iff (w : Word) : decodeFamilyF w = .unknown w ↔
    (fieldKk w).toNat ∉ [0x07, 0x0A, 0x15, 0x18, 0x1E, 0x29, 0x33, 0x55, 0x65] := by
  unfold decodeFamilyF
  split <;> simp_all

/-- The lines of R98, in the fields the decoder reads. -/
theorem decode_eq_unknown_iff (w : Word) : decode w = .unknown w ↔
    ((fieldOp w).toNat = 0x0 ∧ w ≠ 0x00E0 ∧ w ≠ 0x00EE) ∨
    ((fieldOp w).toNat = 0x5 ∧ (fieldN w).val ≠ 0) ∨
    ((fieldOp w).toNat = 0x8 ∧ (fieldN w).val ∈ [8, 9, 0xA, 0xB, 0xC, 0xD, 0xF]) ∨
    ((fieldOp w).toNat = 0x9 ∧ (fieldN w).val ≠ 0) ∨
    (fieldOp w).toNat = 0xB ∨
    ((fieldOp w).toNat = 0xE ∧ (fieldKk w).toNat ∉ [0x9E, 0xA1]) ∨
    ((fieldOp w).toNat = 0xF ∧ (fieldKk w).toNat ∉ [0x07, 0x0A, 0x15, 0x18, 0x1E, 0x29, 0x33, 0x55, 0x65]) := by
  have hlt := (fieldOp w).isLt
  unfold decode
  split
  case h_1 h => simp [h, decodeFamily0_eq_unknown_iff]
  case h_6 h | h_10 h => simp [h]
  case h_9 h => simp [h, decodeFamily8_eq_unknown_iff]
  case h_14 h => simp [h, decodeFamilyE_eq_unknown_iff]
  case h_15 h => simp [h, decodeFamilyF_eq_unknown_iff]
  case h_16 =>
    have hB : (fieldOp w).toNat = 0xB := by
      simp only [imp_false] at *
      omega
    simp [hB]
  all_goals simp [*]

/-- Settles O4: the lines of `decode_eq_unknown_iff`, each field written as a number. -/
theorem unknownWordsAreExactlyTheListedOnes : Obligations.UnknownWordsAreExactlyTheListedOnes := by
  refine ⟨fun w u => eq_of_decode_eq_unknown, fun w => ?_⟩
  simpa [toNat_fieldOp, val_fieldN, toNat_fieldKk] using decode_eq_unknown_iff w

/-- Settles O10, by the lines of `decode_eq_unknown_iff` for the opcodes 0 and B. -/
theorem bnnnAndOther0nnnAreUnknown : Obligations.BnnnAndOther0nnnAreUnknown := by
  refine ⟨fun nnn => ?_, fun nnn hE0 hEE => ?_⟩
  · rw [decode_eq_unknown_iff, fieldOp_append]
    simp
  · have hne {c : Word} (hc : nnn ≠ fieldNnn c) : (0x0#4 ++ nnn : Word) ≠ c := fun h =>
      hc (h ▸ (fieldNnn_append _ _).symm)
    rw [decode_eq_unknown_iff, fieldOp_append]
    exact .inl ⟨rfl, hne hE0, hne hEE⟩

/-! ## The opcode table (R96) -/

/-- R95: two patterns that agree where both rows fix the bits belong to one row. -/
theorem opcodeTable_eq_of_patterns_agree :
    ∀ r ∈ opcodeTable, ∀ q ∈ opcodeTable, r.pattern &&& q.mask = q.pattern &&& r.mask → r = q := by
  decide

theorem opcodeTable_mnemonic_inj : ∀ r ∈ opcodeTable, ∀ q ∈ opcodeTable, r.mnemonic = q.mnemonic → r = q := by
  decide

theorem opcodeTable_patterns_known : ∀ r ∈ opcodeTable, decode r.pattern ≠ .unknown r.pattern := by
  decide

/-- Settles O3: a word that matches two rows has the bits of both patterns where both rows fix them. -/
theorem opcodePatternsAreDisjoint : Obligations.OpcodePatternsAreDisjoint := by
  intro w r q hr hq hwr hwq
  refine opcodeTable_eq_of_patterns_agree r hr q hq ?_
  rw [← hwr, ← hwq, BitVec.and_assoc, BitVec.and_assoc, BitVec.and_comm r.mask]

/-- The family of Laws/PerInstr.lean, gathered (R96). -/
theorem encodesItsRow (i : Instr) : Laws.EncodesItsRow.Statement i := by
  cases i with
  | clearDisplay => exact Laws.EncodesItsRow.clearDisplay
  | ret => exact Laws.EncodesItsRow.ret
  | jump nnn => exact Laws.EncodesItsRow.jump nnn
  | call nnn => exact Laws.EncodesItsRow.call nnn
  | skipEqConst x kk => exact Laws.EncodesItsRow.skipEqConst x kk
  | skipNeConst x kk => exact Laws.EncodesItsRow.skipNeConst x kk
  | skipEqReg x y => exact Laws.EncodesItsRow.skipEqReg x y
  | setConst x kk => exact Laws.EncodesItsRow.setConst x kk
  | addConst x kk => exact Laws.EncodesItsRow.addConst x kk
  | set x y => exact Laws.EncodesItsRow.set x y
  | or x y => exact Laws.EncodesItsRow.or x y
  | and x y => exact Laws.EncodesItsRow.and x y
  | xor x y => exact Laws.EncodesItsRow.xor x y
  | add x y => exact Laws.EncodesItsRow.add x y
  | sub x y => exact Laws.EncodesItsRow.sub x y
  | shiftRight x y => exact Laws.EncodesItsRow.shiftRight x y
  | subN x y => exact Laws.EncodesItsRow.subN x y
  | shiftLeft x y => exact Laws.EncodesItsRow.shiftLeft x y
  | skipNeReg x y => exact Laws.EncodesItsRow.skipNeReg x y
  | setI nnn => exact Laws.EncodesItsRow.setI nnn
  | rand x kk => exact Laws.EncodesItsRow.rand x kk
  | draw x y n => exact Laws.EncodesItsRow.draw x y n
  | skipKeyPressed x => exact Laws.EncodesItsRow.skipKeyPressed x
  | skipKeyNotPressed x => exact Laws.EncodesItsRow.skipKeyNotPressed x
  | getDelay x => exact Laws.EncodesItsRow.getDelay x
  | haltUntilPressed x => exact Laws.EncodesItsRow.haltUntilPressed x
  | setDelay x => exact Laws.EncodesItsRow.setDelay x
  | setSound x => exact Laws.EncodesItsRow.setSound x
  | addI x => exact Laws.EncodesItsRow.addI x
  | loadFont x => exact Laws.EncodesItsRow.loadFont x
  | storeBcd x => exact Laws.EncodesItsRow.storeBcd x
  | storeV x => exact Laws.EncodesItsRow.storeV x
  | loadV x => exact Laws.EncodesItsRow.loadV x

theorem exists_row_of_decode {w : Word} {i : Instr} (h : decode w = .known i) :
    ∃ r ∈ opcodeTable, r.mnemonic = i.mnemonic ∧ w &&& r.mask = r.pattern := by
  obtain ⟨r, hr, hname, hacc⟩ := encodesItsRow i
  rw [encode_of_decode h] at hacc
  exact ⟨r, hr, hname, eq_of_beq hacc⟩

/-- A field on which a mask is all ones reads in a matching word as in the pattern. -/
theorem extractLsb'_of_match {w m p : Word} {start len : Nat} (h : w &&& m = p)
    (hm : m.extractLsb' start len = BitVec.allOnes len) : w.extractLsb' start len = p.extractLsb' start len := by
  rw [← h, BitVec.extractLsb'_and, hm, BitVec.and_allOnes]

/-- Each row's mask covers the fields its family is decoded by (R95). -/
theorem opcodeTable_masks : ∀ r ∈ opcodeTable,
    r.mask.extractLsb' 12 4 = 0xF ∧
    ((fieldOp r.pattern).toNat = 0x0 → r.mask = 0xFFFF) ∧
    ((fieldOp r.pattern).toNat ∈ [0x5, 0x8, 0x9] → r.mask.extractLsb' 0 4 = 0xF) ∧
    ((fieldOp r.pattern).toNat ∈ [0xE, 0xF] → r.mask.extractLsb' 0 8 = 0xFF) := by
  decide

/-- Where a word and the pattern it matches can differ, the lines of R98 do not look. -/
theorem pattern_unknown_of_match {w : Word} {r : OpcodeRow} (hr : r ∈ opcodeTable) (h : w &&& r.mask = r.pattern)
    (hw : decode w = .unknown w) : decode r.pattern = .unknown r.pattern := by
  obtain ⟨hmaskOp, hmask0, hmaskN, hmaskKk⟩ := opcodeTable_masks r hr
  have hop : fieldOp w = fieldOp r.pattern := extractLsb'_of_match h hmaskOp
  have h0 (hf : (fieldOp r.pattern).toNat = 0x0) : w = r.pattern := by
    rw [← h, hmask0 hf]
    exact BitVec.and_allOnes.symm
  have hn (hf : (fieldOp r.pattern).toNat ∈ [0x5, 0x8, 0x9]) : fieldN w = fieldN r.pattern :=
    congrArg BitVec.toFin (extractLsb'_of_match h (hmaskN hf))
  have hkk (hf : (fieldOp r.pattern).toNat ∈ [0xE, 0xF]) : fieldKk w = fieldKk r.pattern :=
    extractLsb'_of_match h (hmaskKk hf)
  rw [decode_eq_unknown_iff, hop] at hw
  rw [decode_eq_unknown_iff]
  obtain ⟨hf, hl⟩ | ⟨hf, hl⟩ | ⟨hf, hl⟩ | ⟨hf, hl⟩ | hf | ⟨hf, hl⟩ | ⟨hf, hl⟩ := hw
  · exact .inl ⟨hf, h0 hf ▸ hl⟩
  · simp [hf, ← hn (by simp [hf]), hl]
  · simp [hf, ← hn (by simp [hf]), hl]
  · simp [hf, ← hn (by simp [hf]), hl]
  · simp [hf]
  · simp [hf, ← hkk (by simp [hf]), hl]
  · simp [hf, ← hkk (by simp [hf]), hl]

theorem exists_decode_of_match {w : Word} {r : OpcodeRow} (hr : r ∈ opcodeTable) (h : w &&& r.mask = r.pattern) :
    ∃ i, decode w = .known i ∧ i.mnemonic = r.mnemonic := by
  cases hd : decode w with
  | known i =>
    obtain ⟨q, hq, hname, hmatch⟩ := exists_row_of_decode hd
    exact ⟨i, rfl, opcodePatternsAreDisjoint w r q hr hq h hmatch ▸ hname.symm⟩
  | unknown u =>
    rw [eq_of_decode_eq_unknown hd] at hd
    exact absurd (pattern_unknown_of_match hr h hd) (opcodeTable_patterns_known r hr)

/-- Settles O2: a decoded word is the encoding of its instruction, which lies in the row of its mnemonic; and a word
that matches a row cannot be `Unknown`. -/
theorem wordsMatchTheOpcodeTable : Obligations.WordsMatchTheOpcodeTable := by
  refine ⟨rfl, fun w r hr => ⟨exists_decode_of_match hr, ?_⟩, fun w i => encode_of_decode⟩
  rintro ⟨i, hd, hname⟩
  obtain ⟨q, hq, hqname, hmatch⟩ := exists_row_of_decode hd
  rwa [opcodeTable_mnemonic_inj q hq r hr (hqname.trans hname)] at hmatch

end Sys2Proof
end

section
/-! Proofs about the execution cycle (40_execution_cycle.md). First what a cycle, a step and a command answer for each
outcome of the fetch, the decoder and the instruction; each obligation is read off from these. -/

namespace Sys2Proof.Machine

/-! ## The cycle, forward -/

section
variable {s t : State} {w : Word} {i : Instr} {f : Fault}

/-- The fetch above the last address that holds two bytes (R121). -/
theorem fetch_of_gt (h : 4094 < s.pc.toNat) : fetch s = none :=
  if_neg (by omega)

theorem cycle_of_fetch_none (hw : fetch s = none) : cycle s = .fault (.pcOutOfBounds s.pc) := by
  rw [cycle, hw]
  rfl

theorem cycle_of_unknown {u : Word} (hw : fetch s = some w) (hd : decode w = .unknown u) :
    cycle s = .fault (.unknownOpcode w) := by
  obtain rfl := eq_of_decode_eq_unknown hd
  simp only [cycle, hw, hd, execUnknown, raise]

theorem cycle_of_known (hw : fetch s = some w) (hd : decode w = .known i) : cycle s = commonTail (exec i s) := by
  simp only [cycle, hw, hd]

theorem cycle_of_exec_next (hw : fetch s = some w) (hd : decode w = .known i) (h : exec i s = .next t) :
    cycle s = .next (t.setEdge none) := by
  rw [cycle_of_known hw hd, h, commonTail]

theorem cycle_of_exec_fault (hw : fetch s = some w) (hd : decode w = .known i) (h : exec i s = .fault f) :
    cycle s = .fault f := by
  rw [cycle_of_known hw hd, h, commonTail]

theorem instrAt_of_known (hw : fetch s = some w) (hd : decode w = .known i) : s.instrAt = some i := by
  simp only [State.instrAt, hw, hd]

/-! ## The step and the commands, forward -/

theorem step_of_script_nil (hr : s.afterReset = true) (hs : s.script = []) : step s = cycle s := by
  simp only [step, hs, runCommand_afterReset hr]

theorem step_of_script_cycle {rest : List Command} (hr : s.afterReset = true) (hs : s.script = .cycle :: rest) :
    step s = cycle { s with script := rest } := by
  have hr' : ({ s with script := rest } : State).afterReset = true := hr
  simp only [step, hs, runCommand_afterReset hr']

theorem issue_of_next {c : Command} (h : runCommand c s = .next t) : issue c s = (t, okReply c s) := by
  simp only [issue, h]

theorem issue_of_fault {c : Command} (h : runCommand c s = .fault f) : issue c s = (s, .error f) := by
  simp only [issue, h]

theorem issue_cycle_of_fault (hr : s.afterReset = true) (h : cycle s = .fault f) : issue .cycle s = (s, .error f) :=
  issue_of_fault (runCommand_afterReset hr ▸ h)

/-- A cycle that succeeds replies with the instruction it executed (R126). -/
theorem issue_cycle_of_exec_next (hr : s.afterReset = true) (hw : fetch s = some w) (hd : decode w = .known i)
    (h : exec i s = .next t) : issue .cycle s = (t.setEdge none, .executed i) := by
  have hrun : runCommand .cycle s = .next (t.setEdge none) :=
    (runCommand_afterReset hr).trans (cycle_of_exec_next hw hd h)
  rw [issue_of_next hrun, okReply, instrAt_of_known hw hd]

/-- After a command that fails, the rest of a sequence runs from the same state. -/
theorem issueAll_cons_of_error {c : Command} (h : issue c s = (s, .error f)) (cs : List Command) :
    issueAll (c :: cs) s = ((issueAll cs s).1, .error f :: (issueAll cs s).2) := by
  simp only [issueAll, h]

/-- A command that fails fails the same way as often as it is repeated (R128). -/
theorem issueAll_replicate_of_error {c : Command} (h : issue c s = (s, .error f)) (n : Nat) :
    issueAll (List.replicate n c) s = (s, List.replicate n (.error f)) := by
  induction n with
  | zero => rfl
  | succ n ih => rw [List.replicate_succ, issueAll_cons_of_error h, ih, List.replicate_succ]

theorem issueAll_reset (s : State) : issueAll [.reset] s =
    ({ State.resetWith s.params with draws := s.draws, script := s.script }, [.done]) := by
  have hreset := issue_of_next (runCommand_reset s)
  simp only [issueAll, hreset, okReply]

end

/-! ## One instruction or one error -/

/-- Settles O7: the fetch, the decoder and the instruction, each in its two outcomes. -/
theorem cycleExecutesOneInstructionOrReportsOneError :
    Obligations.CycleExecutesOneInstructionOrReportsOneError := by
  intro s hr
  refine ⟨fun hpc => issue_cycle_of_fault hr (cycle_of_fetch_none (fetch_of_gt hpc)), fun w hw => ⟨fun u hd => ?_,
    fun i hd => ⟨fun t => issue_cycle_of_exec_next hr hw hd, fun f hf => ?_⟩⟩⟩
  · exact issue_cycle_of_fault hr (cycle_of_unknown hw hd)
  · exact issue_cycle_of_fault hr (cycle_of_exec_fault hw hd hf)

/-- Settles O6: the step is the cycle of the state with its command taken off the script, which fetches the same word. -/
theorem stepRunsTheDecodedInstruction : Obligations.StepRunsTheDecodedInstruction := by
  intro s s' i hr hs hpc hd
  have hw := fetch_of_le s hpc
  obtain ⟨hstep, hw'⟩ : step s = cycle s' ∧ fetch s' = fetch s := by
    obtain ⟨hnil, rfl⟩ | ⟨rest, hcons, rfl⟩ := hs
    · exact ⟨step_of_script_nil hr hnil, rfl⟩
    · exact ⟨step_of_script_cycle hr hcons, rfl⟩
  rw [hstep]
  exact ⟨fun t => cycle_of_exec_next (hw'.trans hw) hd, fun f => cycle_of_exec_fault (hw'.trans hw) hd⟩

/-- Settles O8: the fetch on each side of its bound. -/
theorem fetchReadsTwoBytesOrPcIsOutOfBounds : Obligations.FetchReadsTwoBytesOrPcIsOutOfBounds := by
  intro s hr
  refine ⟨fun hpc => ⟨fetch_of_gt hpc, fun hs => ?_⟩, fun hpc => ⟨_, fetch_of_le s hpc, wordOfBytes_toNat _ _⟩⟩
  rw [step_of_script_nil hr hs, cycle_of_fetch_none (fetch_of_gt hpc)]

/-- Settles O9: the cycle fails, and repeats its error from the unchanged state. -/
theorem unknownWordRaisesUnknownOpcode : Obligations.UnknownWordRaisesUnknownOpcode := by
  intro s w u hr hw hd
  have hcycle := cycle_of_unknown hw hd
  have hissue := issue_cycle_of_fault hr hcycle
  exact ⟨fun hs => (step_of_script_nil hr hs).trans hcycle, hissue, issueAll_replicate_of_error hissue 2⟩

/-! ## What a cycle leaves -/

/-- Settles O11: the common tail of a cycle that succeeds, and the unchanged state of one that fails. -/
theorem everyCycleThatSucceedsEmptiesTheKeyLatch : Obligations.EveryCycleThatSucceedsEmptiesTheKeyLatch := by
  refine fun s => ⟨fun t h => ?_, fun t f h => congrArg State.edge (issue_error h).1⟩
  obtain ⟨w, i, u, -, -, -, rfl⟩ := cycle_next h
  exact u.setEdge_edge none

section
variable {i : Instr} {s t : State}

theorem exec_dt (h : exec i s = .next t) : t.dt = s.dt ∨ ∃ x, i = .setDelay x ∧ t.dt = s.getV x := by
  refine (exec_frame h).same_or (part := .dt) fun hw => ?_
  obtain ⟨x, rfl⟩ := dt_mem_writes hw
  obtain rfl := Host.Outcome.next.inj h
  exact ⟨x, rfl, rfl⟩

theorem exec_st (h : exec i s = .next t) : t.st = s.st ∨ ∃ x, i = .setSound x ∧ t.st = s.getV x := by
  refine (exec_frame h).same_or (part := .st) fun hw => ?_
  obtain ⟨x, rfl⟩ := st_mem_writes hw
  obtain rfl := Host.Outcome.next.inj h
  exact ⟨x, rfl, rfl⟩

theorem exec_draws (h : exec i s = .next t) : t.draws = s.draws ∨ ∃ x kk, i = .rand x kk ∧ t.draws = s.draws + 1 := by
  refine (exec_frame h).same_or (part := .draws) fun hw => ?_
  obtain ⟨x, kk, rfl⟩ := draws_mem_writes hw
  obtain rfl := Host.Outcome.next.inj h
  exact ⟨x, kk, rfl, rfl⟩

end

/-- Settles O12: the frame of the executed instruction, to which the common tail adds the latch only. -/
theorem whatNoCycleDoes : Obligations.WhatNoCycleDoes := by
  intro s t h
  obtain ⟨w, i, u, hw, hd, hu, rfl⟩ := cycle_next h
  have never := fun part hp => exec_frame hu part (notMem_writes i part hp)
  rw [instrAt_of_known hw hd]
  simp only [Option.some.injEq, State.setEdge_dt, State.setEdge_st, State.setEdge_draws]
  exact ⟨never .held (by simp), never .params (by simp), never .script (by simp), exec_dt hu, exec_st hu,
    exec_draws hu⟩

/-- Settles O13: a failed command leaves the state, so that the same command fails again; and a `reset` never fails. -/
theorem failedCycleChangesNothingAndRepeats : Obligations.FailedCycleChangesNothingAndRepeats := by
  intro s t f h
  obtain ⟨rfl, -⟩ := issue_error h
  have hreset := issueAll_cons_of_error h [.reset]
  rw [issueAll_reset] at hreset
  exact ⟨rfl, issueAll_replicate_of_error h 3, _, hreset, rfl, rfl, rfl⟩

/-! ## No refusal

Each operation that can raise an error continues or raises it, and never refuses by itself. -/

section
variable {r : Refusal}

theorem withRange_ne_refused {base count : Nat} {k : Result} (hk : k ≠ .refused r) :
    withRange base count k ≠ .refused r := by
  obtain ⟨-, -, e⟩ | ⟨-, e⟩ := withRange_cases base count k
  · rw [e]; nofun
  · rwa [e]

theorem pushThen_ne_refused {s : State} {ret : Word} {k : State → Result} (hk : ∀ t, k t ≠ .refused r) :
    pushThen s ret k ≠ .refused r := by
  obtain ⟨-, e⟩ | ⟨_, e⟩ := pushThen_cases s ret k
  · rw [e]; nofun
  · rw [e]; exact hk _

theorem popThen_ne_refused {s : State} {k : Word → State → Result} (hk : ∀ w t, k w t ≠ .refused r) :
    popThen s k ≠ .refused r := by
  obtain ⟨-, e⟩ | ⟨_, e⟩ := popThen_cases s k
  · rw [e]; nofun
  · rw [e]; exact hk _ _

theorem withKey_ne_refused {s : State} {x : Reg} {k : Key → Result} (hk : ∀ j, k j ≠ .refused r) :
    withKey s x k ≠ .refused r := by
  obtain ⟨-, e⟩ | ⟨_, e⟩ := withKey_cases s x k
  · rw [e]; nofun
  · rw [e]; exact hk _

end

/-- Settles O15, by the operation each instruction is made of (R123). -/
theorem noInstructionIsRefused : Obligations.NoInstructionIsRefused := by
  intro i s r
  cases i with
  | ret =>
    rw [exec, execReturn]
    exact popThen_ne_refused fun _ _ => nofun
  | call nnn =>
    rw [exec, execCall]
    exact pushThen_ne_refused fun _ => nofun
  | skipKeyPressed x | skipKeyNotPressed x =>
    simp only [exec, execSkipKeyPressed, execSkipKeyNotPressed]
    exact withKey_ne_refused fun _ => nofun
  | draw | storeBcd | storeV | loadV => exact withRange_ne_refused nofun
  | haltUntilPressed x =>
    simp only [exec, execHaltUntilPressed]
    split <;> nofun
  | _ => nofun

end Sys2Proof.Machine
end

section
/-! Proofs about control flow (41_control_flow.md). First the two stack instructions on each side of their checks; what
they and the others leave is the frame of every instruction, and the words are the encoder's. -/

namespace Sys2Proof.Machine

open Sys2Proof.Statements

/-! ## The stack instructions, forward -/

section
variable {s : State} {k : Fin 16}

theorem exec_ret_of_sp_eq_zero (h : s.sp = 0) : exec .ret s = .fault .stackUnderflow := by
  obtain ⟨-, e⟩ | ⟨hpos, -⟩ := popThen_cases s fun entry u => .next (u.goto entry)
  · exact e
  · simp [h] at hpos

theorem exec_ret_of_sp_eq_succ (h : s.sp.val = k.val + 1) :
    exec .ret s = .next ((s.setSp k.castSucc).goto (s.entry k)) := by
  obtain ⟨hz, -⟩ | ⟨hpos, e⟩ := popThen_cases s fun entry u => .next (u.goto entry)
  · simp [hz] at h
  · have hk : (⟨s.sp.val - 1, by omega⟩ : Fin 16) = k := Fin.ext (by simp [h])
    rw [← hk]
    exact e

theorem exec_call_of_sp_eq_sixteen (nnn : Addr12) (h : s.sp = 16) : exec (.call nnn) s = .fault .stackOverflow := by
  obtain ⟨-, e⟩ | ⟨hlt, -⟩ := pushThen_cases s (s.pc + 2) fun u => .next (u.goto (zext16 nnn))
  · exact e
  · simp [h] at hlt

theorem exec_call_of_sp_eq (nnn : Addr12) (h : s.sp.val = k.val) :
    exec (.call nnn) s = .next (((s.setEntry k (s.pc + 2)).setSp k.succ).goto (zext16 nnn)) := by
  obtain ⟨h16, -⟩ | ⟨hlt, e⟩ := pushThen_cases s (s.pc + 2) fun u => .next (u.goto (zext16 nnn))
  · simp only [h16] at h
    have := k.isLt
    omega
  · have hk : (⟨s.sp.val, hlt⟩ : Fin 16) = k := Fin.ext h
    rw [← hk]
    exact e

end

/-! ## Frames, one after the other -/

section
variable {s t u : State}

theorem samePart.trans {part : Part} (h : samePart s t part) (h' : samePart t u part) : samePart s u part := by
  cases part with
  | v | stack | held | mem => exact fun k => (h' k).trans (h k)
  | _ => exact Eq.trans h' h

theorem unchangedBut.trans {ps : List Part} (h : unchangedBut ps s t) (h' : unchangedBut ps t u) :
    unchangedBut ps s u :=
  fun part hp => (h part hp).trans (h' part hp)

theorem unchangedBut.mono {ps qs : List Part} (h : unchangedBut ps s t) (hsub : ps ⊆ qs) : unchangedBut qs s t :=
  fun part hp => h part fun hm => hp (hsub hm)

end

/-- Settles O24: the `Call` leaves its return address in the entry that the `Return` pops, and both keep the parts
neither writes. -/
theorem returnAfterCallResumesAfterIt : Obligations.ReturnAfterCallResumesAfterIt := by
  intro nnn s t hcall
  obtain ⟨k, hk, ht⟩ := exec_call_next hcall
  have hsp : t.sp.val = k.val + 1 := by rw [ht]; rfl
  have hentry : t.entry k = s.pc + 2 := by simp [ht, State.entry_setEntry]
  have hret := exec_ret_of_sp_eq_succ hsp
  have hretFrame := (exec_frame hret).mono (qs := [.stack, .sp, .pc]) (by simp [writes])
  exact ⟨_, hret, Fin.ext hk.symm, hentry, (exec_frame hcall).trans hretFrame⟩

/-- Settles O21: the pop on each side of its check. -/
theorem returnPopsThePc : Obligations.ReturnPopsThePc := by
  refine ⟨decode_encode .ret, fun s => ⟨exec_ret_of_sp_eq_zero, fun k hk => ?_⟩⟩
  have hret := exec_ret_of_sp_eq_succ hk
  exact ⟨_, hret, rfl, rfl, exec_frame hret⟩

/-- Settles O23: the push on each side of its check. -/
theorem callPushesTheReturnAddress : Obligations.CallPushesTheReturnAddress := by
  refine ⟨fun nnn => decode_encode (.call nnn), fun nnn s => ⟨exec_call_of_sp_eq_sixteen nnn, fun k hk => ?_⟩⟩
  have hcall := exec_call_of_sp_eq nnn hk
  exact ⟨_, hcall, rfl, fun j => State.entry_setEntry s k j _, zext16_toNat nnn, exec_frame hcall⟩

/-! ## Jumps and skips, which never fail -/

/-- Settles O22: the target of `Jump` is `nnn` extended with zeros. -/
theorem jumpGoesToItsTarget : Obligations.JumpGoesToItsTarget :=
  ⟨fun nnn => decode_encode (.jump nnn), fun nnn _ => ⟨_, rfl, zext16_toNat nnn, exec_frame (i := .jump nnn) rfl⟩⟩

section
variable (s : State) (a b : Byte)

theorem State.skipIf_beq_pc : (s.skipIf (a == b)).pc = if a.toNat = b.toNat then s.pc + 4 else s.pc + 2 := by
  simp [BitVec.toNat_inj]

theorem State.skipIf_bne_pc : (s.skipIf (a != b)).pc = if a.toNat = b.toNat then s.pc + 2 else s.pc + 4 := by
  by_cases h : a = b <;> simp [h, BitVec.toNat_inj]

end

/-- Settles O25: the skip of each condition, and the frame of an instruction that writes `pc` alone. -/
theorem constantSkips : Obligations.ConstantSkips :=
  ⟨fun x kk => decode_encode (.skipEqConst x.toFin kk), fun x kk => decode_encode (.skipNeConst x.toFin kk),
    fun x kk s => ⟨⟨_, rfl, s.skipIf_beq_pc _ _, exec_frame (i := .skipEqConst x kk) rfl⟩,
      ⟨_, rfl, s.skipIf_bne_pc _ _, exec_frame (i := .skipNeConst x kk) rfl⟩⟩⟩

/-- The words 5xyn and 9xyn with another low nibble than 0 (30_encoding.md R98). -/
theorem decode_append_nibbles_unknown {op x y n : BitVec 4} (hop : op = 0x5 ∨ op = 0x9) (hn : n ≠ 0) :
    decode (op ++ (x ++ (y ++ n))) = .unknown (op ++ (x ++ (y ++ n))) := by
  have hval : (fieldN (op ++ (x ++ (y ++ n)))).val ≠ 0 := by
    rw [fieldN_append_nibbles]
    exact fun h => hn (BitVec.eq_of_toNat_eq h)
  have hfield : fieldOp (op ++ (x ++ (y ++ n))) = op := fieldOp_append op _
  rw [decode_eq_unknown_iff, hfield]
  obtain rfl | rfl := hop
  · exact .inr (.inl ⟨rfl, hval⟩)
  · exact .inr (.inr (.inr (.inl ⟨rfl, hval⟩)))

/-- Settles O26: as for the constant skips; another low nibble lies in a line of R98. -/
theorem registerSkips : Obligations.RegisterSkips := by
  refine ⟨fun x y => decode_encode (.skipEqReg x.toFin y.toFin), fun x y => decode_encode (.skipNeReg x.toFin y.toFin),
    fun x y n hn => ⟨decode_append_nibbles_unknown (.inl rfl) hn, decode_append_nibbles_unknown (.inr rfl) hn⟩,
    fun x y s => ⟨⟨_, rfl, s.skipIf_beq_pc _ _, ?_⟩, ⟨_, rfl, s.skipIf_bne_pc _ _, ?_⟩⟩⟩
  · exact exec_frame (i := .skipEqReg x y) rfl
  · exact exec_frame (i := .skipNeReg x y) rfl

end Sys2Proof.Machine
end

section
/-! Proofs about the constant, ALU and random instructions (42_constants_alu.md). First what a register reads as a
number after each of the two register updates they are made of, and the numbers the ALU computes; what each leaves is
the frame of every instruction, and the words are the encoder's. -/

namespace Sys2Proof.Machine

/-! ## Registers as numbers -/

section
variable (s : State) (x r : Reg) (a f : Byte)

theorem State.toNat_getV_setV :
    ((s.setV x a).getV r).toNat = if r = x then a.toNat else (s.getV r).toNat := by
  rw [State.getV_setV, apply_ite BitVec.toNat]

/-- The flag wins over the result (10_state.md R23). -/
theorem State.toNat_getV_setWithFlag : ((s.setWithFlag x a f).getV r).toNat =
    if r = 15 then f.toNat else if r = x then a.toNat else (s.getV r).toNat := by
  rw [State.getV_setWithFlag, apply_ite BitVec.toNat, apply_ite BitVec.toNat, VF]

end

/-! ## Results and flags as numbers -/

section
variable (a b : Byte)

theorem toNat_byte_sub : ((a - b).toNat : Int) = ((a.toNat : Int) - b.toNat) % 256 := by
  have hb := b.isLt
  rw [BitVec.toNat_sub]
  omega

theorem toNat_byte_shiftRight_one : (a >>> 1).toNat = a.toNat / 2 := by
  rw [BitVec.toNat_ushiftRight, Nat.shiftRight_one]

theorem toNat_byte_shiftLeft_one : (a <<< 1).toNat = a.toNat * 2 % 256 := by
  rw [BitVec.toNat_shiftLeft, Nat.shiftLeft_eq]

theorem shiftRightFlag_toNat : (shiftRightFlag a).toNat = a.toNat % 2 := by
  rw [shiftRightFlag, flagByte_toNat, BitVec.getLsbD, Nat.testBit_zero]
  simp only [decide_eq_true_eq]
  split <;> omega

theorem shiftLeftFlag_toNat : (shiftLeftFlag a).toNat = a.toNat / 128 := by
  have ha := a.isLt
  rw [shiftLeftFlag, flagByte_toNat, ← BitVec.msb_eq_getLsbD_last, BitVec.msb_eq_decide]
  simp only [decide_eq_true_eq]
  split <;> omega

end

/-! ## Constants and logic: the destination alone -/

/-- Settles O27: each stores one byte in its destination; `AddConst` adds modulo 256. -/
theorem setAndAddConstants : Obligations.SetAndAddConstants := by
  refine ⟨fun x kk => decode_encode (.setConst x.toFin kk), fun x kk => decode_encode (.addConst x.toFin kk),
    fun x y => decode_encode (.set x.toFin y.toFin), fun x y kk s => ⟨?_, ?_, ?_⟩⟩
  · exact ⟨_, rfl, fun r => s.getV_setV x r kk, rfl, exec_frame (i := .setConst x kk) rfl⟩
  · exact ⟨_, rfl, fun r => s.toNat_getV_setV x r (s.getV x + kk), rfl, exec_frame (i := .addConst x kk) rfl⟩
  · exact ⟨_, rfl, fun r => s.getV_setV x r (s.getV y), rfl, exec_frame (i := .set x y) rfl⟩

/-- Settles O28: each stores one byte in its destination, whose bits are those of the operands combined one by one. -/
theorem logicWritesNoFlag : Obligations.LogicWritesNoFlag := by
  refine ⟨fun x y => decode_encode (.or x.toFin y.toFin), fun x y => decode_encode (.and x.toFin y.toFin),
    fun x y => decode_encode (.xor x.toFin y.toFin), fun x y s => ⟨?_, ?_, ?_⟩⟩
  · refine ⟨_, rfl, fun k _ => ?_, fun r hr => s.getV_setV_other hr _, rfl, exec_frame (i := .or x y) rfl⟩
    rw [State.advance_eq, State.getV_goto, State.getV_setV_same, BitVec.getLsbD_or]
  · refine ⟨_, rfl, fun k _ => ?_, fun r hr => s.getV_setV_other hr _, rfl, exec_frame (i := .and x y) rfl⟩
    rw [State.advance_eq, State.getV_goto, State.getV_setV_same, BitVec.getLsbD_and]
  · refine ⟨_, rfl, fun k _ => ?_, fun r hr => s.getV_setV_other hr _, rfl, exec_frame (i := .xor x y) rfl⟩
    rw [State.advance_eq, State.getV_goto, State.getV_setV_same, BitVec.getLsbD_xor, Bool.bne_eq_xor]

/-! ## Arithmetic and shifts: the result, then the flag -/

/-- Settles O29: the sum and its carry, in the order of 10_state.md R23. -/
theorem addSumsAndCarries : Obligations.AddSumsAndCarries := by
  refine ⟨fun x y => decode_encode (.add x.toFin y.toFin), fun x y s =>
    ⟨_, rfl, fun r => ?_, rfl, exec_frame (i := .add x y) rfl⟩⟩
  rw [State.advance_eq, State.getV_goto, State.toNat_getV_setWithFlag, carryFlag_toNat, BitVec.toNat_add]

/-- The registers after a difference and its no-borrow flag are stored, whichever order it is taken in (R167, R169). -/
theorem State.toNat_getV_setWithFlag_sub (s : State) (x r : Reg) (a b : Byte) :
    (((s.setWithFlag x (a - b) (noBorrowFlag a b)).getV r).toNat : Int) =
      if r = 15 then (if a.toNat ≥ b.toNat then 1 else 0)
      else if r = x then ((a.toNat : Int) - b.toNat) % 256 else (s.getV r).toNat := by
  rw [State.toNat_getV_setWithFlag, noBorrowFlag_toNat, ← toNat_byte_sub]
  push_cast
  rfl

/-- Settles O30: one law for the two orders of the difference. -/
theorem subAndSubNSubtract : Obligations.SubAndSubNSubtract := by
  refine ⟨fun x y => decode_encode (.sub x.toFin y.toFin), fun x y => decode_encode (.subN x.toFin y.toFin),
    fun x y s => ⟨?_, ?_⟩⟩
  · exact ⟨_, rfl, fun r => s.toNat_getV_setWithFlag_sub x r _ _, rfl, exec_frame (i := .sub x y) rfl⟩
  · exact ⟨_, rfl, fun r => s.toNat_getV_setWithFlag_sub x r _ _, rfl, exec_frame (i := .subN x y) rfl⟩

/-- Settles O31: both sources are the one shift operand, whose value is shifted and whose bit is the flag. -/
theorem shiftsMoveOnePlace : Obligations.ShiftsMoveOnePlace := by
  refine ⟨fun x y => decode_encode (.shiftRight x.toFin y.toFin),
    fun x y => decode_encode (.shiftLeft x.toFin y.toFin), fun x y s a ha => ?_⟩
  obtain rfl : a = (s.shiftOperand x y).toNat := by
    obtain ⟨hsrc, hop⟩ | ⟨hsrc, hop⟩ := s.shiftOperand_cases x y <;> simpa [hsrc, hop] using ha
  refine ⟨⟨_, rfl, fun r => ?_, rfl, exec_frame (i := .shiftRight x y) rfl⟩,
    ⟨_, rfl, fun r => ?_, rfl, exec_frame (i := .shiftLeft x y) rfl⟩⟩
  · rw [State.advance_eq, State.getV_goto, State.toNat_getV_setWithFlag, shiftRightFlag_toNat,
      toNat_byte_shiftRight_one]
  · rw [State.advance_eq, State.getV_goto, State.toNat_getV_setWithFlag, shiftLeftFlag_toNat,
      toNat_byte_shiftLeft_one]

/-! ## The random source -/

/-- Settles O32: the byte drawn is stored masked, and a mask applied twice is applied once. -/
theorem randMasksAFreeByte : Obligations.RandMasksAFreeByte := by
  refine ⟨fun x kk => decode_encode (.rand x.toFin kk), fun x kk s =>
    ⟨_, rfl, fun r => s.drawn.getV_setV x r _, ?_, rfl, rfl, ?_⟩⟩
  · rw [State.advance_eq, State.getV_goto, State.getV_setV_same, BitVec.and_assoc, BitVec.and_self]
  · exact (exec_frame (i := .rand x kk) rfl).mono (by simp [writes])

end Sys2Proof.Machine
end

section
/-! Proofs about the index register and memory instructions (43_index_memory.md). First the range check that fails and
what a block store leaves at an address inside and outside its block; what each leaves is the frame of every
instruction, and the words are the encoder's. -/

namespace Sys2Proof.Machine

/-! ## The range check and block stores, forward -/

/-- The range check fails on a range that leaves memory, with its lowest offending address (20_memory.md R71). -/
theorem withRange_of_gt {base count : Nat} (hcount : 0 < count) (h : 4095 < base + count - 1) (k : Result) :
    withRange base count k = .fault (.addressOutOfBounds (max base 4096)) :=
  if_pos ⟨hcount, h⟩

section
variable (s : State) (a : Nat) {bs : List Byte}

theorem State.byteAt_storeBytes_add {k : Nat} (h : k < bs.length) :
    (s.storeBytes a bs).byteAt (a + k) = bs.getD k 0 := by
  rw [State.byteAt_storeBytes, if_pos (by omega), Nat.add_sub_cancel_left]

theorem State.byteAt_storeBytes_of_outside {c : Nat} (h : c < a ∨ a + bs.length ≤ c) :
    (s.storeBytes a bs).byteAt c = s.byteAt c := by
  rw [State.byteAt_storeBytes, if_neg (by omega)]

end

/-! ## The three decimal digits of a byte (43_index_memory.md R183) -/

section
variable (b : Byte)

theorem bcdDigits_hundreds_toNat : ((bcdDigits b).getD 0 0).toNat = b.toNat / 100 :=
  Nat.mod_eq_of_lt (show b.toNat / 100 < 256 by have := b.isLt; omega)

theorem bcdDigits_tens_toNat : ((bcdDigits b).getD 1 0).toNat = b.toNat / 10 % 10 :=
  Nat.mod_eq_of_lt (show b.toNat / 10 % 10 < 256 by omega)

theorem bcdDigits_units_toNat : ((bcdDigits b).getD 2 0).toNat = b.toNat % 10 :=
  Nat.mod_eq_of_lt (show b.toNat % 10 < 256 by omega)

end

/-! ## The index register -/

/-- Settles O33: each stores one word in `I`; `AddI` adds modulo 65536. -/
theorem indexRegisterWriters : Obligations.IndexRegisterWriters := by
  refine ⟨fun nnn => decode_encode (.setI nnn), fun x => decode_encode (.addI x.toFin),
    fun x => decode_encode (.loadFont x.toFin), fun nnn x s => ⟨?_, ?_, ?_⟩⟩
  · exact ⟨_, rfl, zext16_toNat nnn, rfl, exec_frame (i := .setI nnn) rfl⟩
  · refine ⟨_, rfl, ?_, rfl, exec_frame (i := .addI x) rfl⟩
    rw [State.advance_eq, State.goto_i, State.setI_i, BitVec.toNat_add, byteToWord_toNat]
  · exact ⟨_, rfl, glyphAddress_toNat (s.getV x), rfl, exec_frame (i := .loadFont x) rfl⟩

/-! ## Blocks of memory, on each side of the bound -/

/-- Settles O34: the block stored is the three digits, so an address is one of theirs or keeps its byte. -/
theorem storeBcdStoresThreeDigits : Obligations.StoreBcdStoresThreeDigits := by
  refine ⟨fun x => decode_encode (.storeBcd x.toFin), fun x s =>
    ⟨fun hgt => withRange_of_gt (by omega) hgt _, fun hle => ?_⟩⟩
  have hstore : exec (.storeBcd x) s = .next (s.storeBytes s.base (bcdDigits (s.getV x))).advance :=
    withRange_of_le (show s.i.toNat + 3 ≤ 4096 by omega) _
  set t := (s.storeBytes s.base (bcdDigits (s.getV x))).advance
  have hdigit : ∀ k < 3, (t.byteAt (s.i.toNat + k)).toNat = ((bcdDigits (s.getV x)).getD k 0).toNat :=
    fun _ hk => congrArg BitVec.toNat (s.byteAt_storeBytes_add s.base hk)
  refine ⟨t, hstore, ?_, ?_, ?_, fun a ha => ?_, rfl, exec_frame hstore⟩
  · exact (hdigit 0 (by omega)).trans (bcdDigits_hundreds_toNat _)
  · exact (hdigit 1 (by omega)).trans (bcdDigits_tens_toNat _)
  · exact (hdigit 2 (by omega)).trans (bcdDigits_units_toNat _)
  · exact s.byteAt_storeBytes_of_outside s.base ha

/-- Settles O35: the block stored is the registers up to `V[x]`, so an address holds one of them or keeps its byte. -/
theorem storeVStoresTheBlock : Obligations.StoreVStoresTheBlock := by
  refine ⟨fun x => decode_encode (.storeV x.toFin), fun x s =>
    ⟨fun hgt => withRange_of_gt (by omega) hgt _, fun hle => ?_⟩⟩
  have hstore := exec_storeV_of_le s (x := x) (show s.i.toNat + (x.val + 1) ≤ 4096 by omega)
  refine ⟨_, hstore, fun k hk => s.byteAt_storeBytes_regsUpTo s.base hk, fun a ha => ?_, rfl, exec_frame hstore⟩
  refine s.byteAt_storeBytes_of_outside s.base (ha.imp_right fun h => ?_)
  rw [State.regsUpTo_length]
  exact h

/-- Settles O36: each register of the file loaded is a byte of the block or its old value. -/
theorem loadVLoadsTheBlock : Obligations.LoadVLoadsTheBlock := by
  refine ⟨fun x => decode_encode (.loadV x.toFin), fun x s =>
    ⟨fun hgt => withRange_of_gt (by omega) hgt _, fun hle => ?_⟩⟩
  have hload : exec (.loadV x) s = .next (s.setRegs (s.regsLoaded x s.base)).advance :=
    withRange_of_le (show s.i.toNat + (x.val + 1) ≤ 4096 by omega) _
  exact ⟨_, hload, fun r => s.regsLoaded_get x r s.base, rfl, exec_frame hload⟩

end Sys2Proof.Machine
end

section
/-! Proofs about the display (44_display.md). First the sprite of a state: the cells it toggles are the covered ones, so
the laws of a whole sprite say what a draw does to the screen and to VF. Then what a second draw has in common with the
first. What each instruction leaves is the frame of every instruction, and the words are the encoder's. -/

namespace Sys2Proof.Machine

open Sys2Proof.Statements

/-! ## The clear screen -/

/-- Settles O38: the new screen is the clear one, which has no cell set and has its shape. -/
theorem clearDisplayClearsEveryCell : Obligations.ClearDisplayClearsEveryCell :=
  ⟨decode_encode .clearDisplay, fun _ => ⟨_, rfl, cellAt_blankScreen _ _, screenShaped_blankScreen _ _, rfl,
    exec_frame (i := .clearDisplay) rfl⟩⟩

/-! ## The sprite of a state -/

theorem State.bytesAt_getD (s : State) (a : Nat) {n r : Nat} (h : r < n) :
    (s.bytesAt a n).getD r 0 = s.byteAt (a + r) := by
  simp [State.bytesAt, List.getD_eq_getElem?_getD, h]

theorem Params.wf_bounds {p : Params} (h : p.wf = true) : 8 ≤ p.displayWidth ∧ 16 ≤ p.displayHeight := by
  simp only [Params.wf, widthAllowed, heightAllowed, Bool.and_eq_true, decide_eq_true_eq] at h
  obtain ⟨⟨⟨-, hw⟩, -⟩, ⟨-, hh⟩, -⟩ := h
  exact ⟨hw, hh⟩

section
variable (s : State) (x y : Reg) (n row col : Nat)

/-- The cells the sprite of a draw toggles, each listed once. -/
def State.spriteCellsAt : List (Nat × Nat) :=
  spriteCells s.params.displayWidth s.params.displayHeight (s.getV x).toNat (s.getV y).toNat (s.bytesAt s.base n) 0

/-- The list holds exactly the covered cells (44_display.md R201, R202). -/
theorem mem_spriteCellsAt : (row, col) ∈ s.spriteCellsAt x y n ↔ spriteCovers s x y n row col := by
  rw [State.spriteCellsAt, mem_spriteCells, State.bytesAt_length]
  refine exists_congr fun r => exists_congr fun c => and_congr_right fun hr => ?_
  rw [s.bytesAt_getD s.base hr, Prod.mk.injEq]
  rfl

variable {s n}

/-- A sprite of at most 15 rows is lower than any allowed screen, so the law of a whole sprite applies. -/
theorem spriteDrawn_eq (hok : screenOk s) (hn : n < 16) :
    (∀ row col, cellAt (s.spriteDrawn x y n).fb row col =
      (s.cell row col ^^ decide ((row, col) ∈ s.spriteCellsAt x y n))) ∧
    (s.spriteDrawn x y n).collision = (s.spriteCellsAt x y n).any fun p => s.cell p.1 p.2 := by
  obtain ⟨hwf, hshape⟩ := hok
  obtain ⟨hw, hh⟩ := Params.wf_bounds hwf
  exact blitSprite_eq _ _ _ _ _ _ hshape hw (by rw [State.bytesAt_length]; omega) (by omega)

theorem spriteDrawn_cell (hok : screenOk s) (hn : n < 16) :
    cellAt (s.spriteDrawn x y n).fb row col = true ↔ ¬ (s.cell row col = true ↔ spriteCovers s x y n row col) := by
  rw [(spriteDrawn_eq x y hok hn).1, ← mem_spriteCellsAt, Bool.xor_iff_ne, ne_eq, Bool.eq_iff_iff, decide_eq_true_eq]

theorem spriteDrawn_collision (hok : screenOk s) (hn : n < 16) :
    (s.spriteDrawn x y n).collision = true ↔ ∃ row col, spriteCovers s x y n row col ∧ s.cell row col = true := by
  rw [(spriteDrawn_eq x y hok hn).2, List.any_eq_true, Prod.exists]
  simp only [mem_spriteCellsAt]

end

/-! ## One draw -/

theorem flagByte_eq_one_iff (b : Bool) : flagByte b = 1 ↔ b = true := by cases b <;> simp [flagByte]

section
variable {s t : State} {x y : Reg} {n : Fin 16}

theorem exec_draw_of_fits (s : State) (x y : Reg) (h : n.val = 0 ∨ s.base + n.val ≤ 4096) :
    ∃ t, exec (.draw x y n) s = .next t := by
  obtain ⟨hgt, hpos, -⟩ | ⟨-, e⟩ := withRange_cases s.base n.val _
  · omega
  · exact ⟨_, e⟩

theorem exec_draw_VF_zero_or_one (h : exec (.draw x y n) s = .next t) : t.getV 15 = 0 ∨ t.getV 15 = 1 := by
  obtain ⟨b, hb⟩ := exec_flagWriter_VF (i := .draw x y n) trivial h
  exact hb ▸ flagByte_eq b

theorem exec_draw_getV_of_ne_VF (h : exec (.draw x y n) s = .next t) {r : Reg} (hr : r ≠ 15) :
    t.getV r = s.getV r := by
  obtain ⟨-, rfl⟩ := exec_draw_next h
  exact State.getV_setV_other _ hr _

variable (hok : screenOk s) (h : exec (.draw x y n) s = .next t)
include hok h

theorem exec_draw_screenOk : screenOk t :=
  ⟨by rw [exec_params h]; exact hok.1, exec_keeps_screen hok.2 h⟩

/-- A cell is toggled exactly when it is covered (44_display.md R203). -/
theorem exec_draw_cell (row col : Nat) :
    t.cell row col = true ↔ ¬ (s.cell row col = true ↔ spriteCovers s x y n row col) := by
  obtain ⟨-, rfl⟩ := exec_draw_next h
  exact spriteDrawn_cell x y row col hok n.isLt

/-- VF reports a covered cell that was 1 (44_display.md R204). -/
theorem exec_draw_VF_eq_one_iff :
    t.getV 15 = 1 ↔ ∃ row col, spriteCovers s x y n row col ∧ s.cell row col = true := by
  obtain ⟨-, rfl⟩ := exec_draw_next h
  rw [← spriteDrawn_collision x y hok n.isLt, ← flagByte_eq_one_iff]
  exact Eq.congr_left (State.getV_setV_same _ VF _)

end

/-- Settles O39: the range check on each side of its bound, and the laws of one draw. -/
theorem drawTogglesTheCoveredCells : Obligations.DrawTogglesTheCoveredCells := by
  refine ⟨fun x y n => decode_encode (.draw x.toFin y.toFin n.toFin), fun x y n s =>
    ⟨fun ⟨hpos, hgt⟩ => withRange_of_gt hpos hgt _, fun hfits => ?_⟩⟩
  obtain ⟨t, h⟩ := exec_draw_of_fits s x y (n := n) (hfits.imp_right fun hle => show s.i.toNat + n.val ≤ 4096 by omega)
  exact ⟨t, h, exec_pcAfter h, fun _ => exec_draw_getV_of_ne_VF h, exec_draw_VF_zero_or_one h, exec_frame h,
    fun hok => ⟨exec_draw_screenOk hok h, fun row col _ _ => exec_draw_cell hok h row col,
      exec_draw_VF_eq_one_iff hok h⟩⟩

/-! ## A second draw of the same sprite -/

/-- Two states hold the same sprite at the same place: they agree in all that a draw reads but the screen. -/
structure SameSprite (x y : Reg) (n : Nat) (s t : State) : Prop where
  params : t.params = s.params
  i : t.i = s.i
  column : t.getV x = s.getV x
  row : t.getV y = s.getV y
  bytes : ∀ r < n, t.byteAt (s.i.toNat + r) = s.byteAt (s.i.toNat + r)

section
variable {s t u v : State} {x y : Reg} {n : Fin 16}

theorem SameSprite.covers_iff {n : Nat} (h : SameSprite x y n s t) (row col : Nat) :
    spriteCovers t x y n row col ↔ spriteCovers s x y n row col := by
  unfold spriteCovers
  refine exists_congr fun r => exists_congr fun c => and_congr_right fun hr => ?_
  rw [h.params, h.i, h.column, h.row, h.bytes r hr]

/-- A draw whose coordinates are not VF leaves the sprite where it was. -/
theorem sameSprite_of_draw (h : exec (.draw x y n) s = .next t) (hx : x ≠ 15) (hy : y ≠ 15) :
    SameSprite x y n s t where
  params := exec_params h
  i := exec_frame h .i (by simp [writes])
  column := exec_draw_getV_of_ne_VF h hx
  row := exec_draw_getV_of_ne_VF h hy
  bytes r _ := exec_frame h .mem (by simp [writes]) (s.i.toNat + r)

/-- Some cell is covered exactly when the sprite has a set bit, since the coordinates wrap around. -/
theorem exists_spriteCovers_iff (s : State) (x y : Reg) (n : Nat) :
    (∃ row col, spriteCovers s x y n row col) ↔ spriteHasSetBit s n := by
  constructor
  · rintro ⟨row, col, r, c, hr, -, hbit, -, -⟩
    exact ⟨r, 7 - c, hr, by omega, hbit⟩
  · rintro ⟨r, c, hr, hc, hbit⟩
    exact ⟨_, _, r, 7 - c, hr, by omega, by rwa [Nat.sub_sub_self (Nat.le_of_lt_succ hc)], rfl, rfl⟩

theorem exists_second_draw (hst : exec (.draw x y n) s = .next t) (hsame : SameSprite x y n s u) :
    ∃ v, exec (.draw x y n) u = .next v := by
  have hbase : u.base = s.base := congrArg BitVec.toNat hsame.i
  exact exec_draw_of_fits u x y (by rw [hbase]; exact (exec_draw_next hst).1)

variable (hok : screenOk s) (hst : exec (.draw x y n) s = .next t) (hfb : u.fb = t.fb)
include hok hst hfb

/-- The screen the second draw begins with, over the cells of the first. -/
theorem cell_before_second_draw (row col : Nat) :
    u.cell row col = true ↔ ¬ (s.cell row col = true ↔ spriteCovers s x y n row col) := by
  rw [State.cell, hfb]
  exact exec_draw_cell hok hst row col

variable (hsame : SameSprite x y n s u)
include hsame

theorem screenOk_before_second_draw : screenOk u := by
  obtain ⟨hwf, hshape⟩ := exec_draw_screenOk hok hst
  have hparams : u.params = t.params := hsame.params.trans (exec_params hst).symm
  exact ⟨hparams ▸ hwf, by rw [hparams, hfb]; exact hshape⟩

variable (huv : exec (.draw x y n) u = .next v)
include huv

/-- The covered cells are toggled twice and the others never (44_display.md R205). -/
theorem second_draw_restores_fb : v.fb = s.fb := by
  have hoku := screenOk_before_second_draw hok hst hfb hsame
  have hshape := (exec_draw_screenOk hoku huv).2
  rw [exec_params huv, hsame.params] at hshape
  refine Framebuffer.ext_of_cells _ _ _ _ hshape hok.2 fun row col _ _ => Bool.eq_iff_iff.mpr ?_
  have hsecond := exec_draw_cell hoku huv row col
  rw [hsame.covers_iff, cell_before_second_draw hok hst hfb] at hsecond
  change v.cell row col = true ↔ s.cell row col = true
  tauto

/-- The second flag reports a covered cell that was 0 before the first draw (44_display.md R203). -/
theorem second_draw_VF_eq_one_iff :
    v.getV 15 = 1 ↔ ∃ row col, spriteCovers s x y n row col ∧ s.cell row col = false := by
  rw [exec_draw_VF_eq_one_iff (screenOk_before_second_draw hok hst hfb hsame) huv]
  refine exists_congr fun row => exists_congr fun col => ?_
  rw [hsame.covers_iff, cell_before_second_draw hok hst hfb]
  refine and_congr_right fun hcovered => ?_
  rw [← Bool.not_eq_true, iff_true_right hcovered]

end

/-- Settles O40: the two laws of a second draw; without a set bit no cell is covered. -/
theorem drawingTwiceRestoresTheScreen : Obligations.DrawingTwiceRestoresTheScreen := by
  intro x y n s t hok hst
  refine ⟨fun u hfb hparams hi hx hy hbytes => ?_, fun hx hy => ?_⟩
  · have hsame : SameSprite x y n s u := ⟨hparams, hi, hx, hy, hbytes⟩
    obtain ⟨v, huv⟩ := exists_second_draw hst hsame
    have hflag := second_draw_VF_eq_one_iff hok hst hfb hsame huv
    refine ⟨v, huv, second_draw_restores_fb hok hst hfb hsame huv, hflag, fun hnone => ?_, fun hbit hclear => ?_⟩
    · refine (exec_draw_VF_zero_or_one huv).resolve_right fun hone => hnone ?_
      obtain ⟨row, col, hcovered, -⟩ := hflag.mp hone
      exact (exists_spriteCovers_iff s x y n).mp ⟨row, col, hcovered⟩
    · obtain ⟨row, col, hcovered⟩ := (exists_spriteCovers_iff s x y n).mpr hbit
      exact hflag.mpr ⟨row, col, hcovered, hclear row col hcovered⟩
  · have hsame := sameSprite_of_draw hst hx hy
    obtain ⟨v, huv⟩ := exists_second_draw hst hsame
    exact ⟨v, huv, second_draw_restores_fb hok hst rfl hsame huv⟩

end Sys2Proof.Machine
end

section
/-! Proofs about the keys and the timers (45_keys_timers.md). First a key operand on each side of its check and the two
outcomes of `HaltUntilPressed`, as an instruction and as a cycle; what each instruction leaves is the frame of every
instruction, and the words are the encoder's. -/

namespace Sys2Proof.Machine

/-! ## Key operands, forward (45_keys_timers.md R220) -/

section
variable {s : State} {x : Reg}

theorem withKey_of_gt (h : 15 < (s.getV x).toNat) (f : Key → Result) :
    withKey s x f = .fault (.invalidKeyIndex (s.getV x)) :=
  dif_neg (by omega)

theorem withKey_of_eq {k : Key} (h : (s.getV x).toNat = k.val) (f : Key → Result) : withKey s x f = f k := by
  obtain ⟨hgt, -⟩ | ⟨hlt, e⟩ := withKey_cases s x f
  · have hk := k.isLt
    omega
  · have hkey : (⟨(s.getV x).toNat, hlt⟩ : Key) = k := Fin.ext h
    rw [e, hkey]

end

/-! ## Skips and timers -/

theorem State.skipIf_not_pc (s : State) (c : Bool) : (s.skipIf (!c)).pc = if c then s.pc + 2 else s.pc + 4 := by
  cases c <;> rfl

/-- Settles O41: the key operand on each side of its check, and the frame of an instruction that writes `pc` alone. -/
theorem keySkips : Obligations.KeySkips := by
  refine ⟨fun x => decode_encode (.skipKeyPressed x.toFin), fun x => decode_encode (.skipKeyNotPressed x.toFin),
    fun x s => ⟨fun hgt => ⟨?_, ?_⟩, fun k hk => ⟨?_, ?_⟩⟩⟩
  · rw [exec, execSkipKeyPressed, withKey_of_gt hgt]
  · rw [exec, execSkipKeyNotPressed, withKey_of_gt hgt]
  · have hskip : exec (.skipKeyPressed x) s = .next (s.skipIf (s.isHeld k)) := by
      rw [exec, execSkipKeyPressed, withKey_of_eq hk]
    exact ⟨_, hskip, rfl, exec_frame hskip⟩
  · have hskip : exec (.skipKeyNotPressed x) s = .next (s.skipIf (!s.isHeld k)) := by
      rw [exec, execSkipKeyNotPressed, withKey_of_eq hk]
    exact ⟨_, hskip, s.skipIf_not_pc _, exec_frame hskip⟩

/-- Settles O42: each stores one byte, in a register or in a timer. -/
theorem timerReadAndWrites : Obligations.TimerReadAndWrites := by
  refine ⟨fun x => decode_encode (.getDelay x.toFin), fun x => decode_encode (.setDelay x.toFin),
    fun x => decode_encode (.setSound x.toFin), fun x s => ⟨?_, ?_, ?_⟩⟩
  · exact ⟨_, rfl, fun r => s.getV_setV x r s.dt, rfl, exec_frame (i := .getDelay x) rfl⟩
  · exact ⟨_, rfl, rfl, rfl, exec_frame (i := .setDelay x) rfl⟩
  · exact ⟨_, rfl, rfl, rfl, exec_frame (i := .setSound x) rfl⟩

/-! ## Waiting for a key (45_keys_timers.md R223) -/

/-- Storing in the latch what it holds changes nothing. -/
theorem State.setEdge_of_edge_eq {s : State} {e : Option Key} (h : s.edge = e) : s.setEdge e = s := by
  rw [← h]
  rfl

/-- The instruction at `pc` is the one a cycle runs. -/
theorem cycle_of_instrAt {s t : State} {i : Instr} (hi : s.instrAt = some i) (h : exec i s = .next t) :
    cycle s = .next (t.setEdge none) := by
  unfold State.instrAt at hi
  split at hi
  · cases hi
  · rename_i w hw
    split at hi
    · rename_i j hd
      obtain rfl := Option.some.inj hi
      exact cycle_of_exec_next hw hd h
    · cases hi

section
variable {s : State} {x : Reg} {k : Key}

theorem exec_haltUntilPressed_of_edge_eq_some (h : s.edge = some k) :
    exec (.haltUntilPressed x) s = .next (s.setV x (keyToByte k)).advance := by
  simp only [exec, execHaltUntilPressed, h]

theorem exec_haltUntilPressed_of_edge_eq_none (h : s.edge = none) : exec (.haltUntilPressed x) s = .next s := by
  simp only [exec, execHaltUntilPressed, h]

/-- A stall leaves the whole state: the latch the common tail empties is empty already. -/
theorem cycle_stalls (hi : s.instrAt = some (.haltUntilPressed x)) (h : s.edge = none) : cycle s = .next s := by
  rw [cycle_of_instrAt hi (exec_haltUntilPressed_of_edge_eq_none h), State.setEdge_of_edge_eq h]

/-- A press of a key that was not held latches it, whatever `KEY_EDGE_ON_REPEAT` (60_exceptions.md R258). -/
theorem runCommand_setKey_press (hr : s.afterReset = true) (h : s.isHeld k = false) :
    runCommand (.setKey k true) s = .next ((s.setHeld k true).setEdge (some k)) := by
  simp [runCommand, commandSetKey, hr, h]

end

/-- Settles O43: the two outcomes of the instruction, and their cycles. -/
theorem haltUntilPressedWaitsForAnEdge : Obligations.HaltUntilPressedWaitsForAnEdge := by
  refine ⟨fun x => decode_encode (.haltUntilPressed x.toFin), fun x s => ⟨fun k hk => ?_, fun hnone => ?_⟩⟩
  · have hserved := exec_haltUntilPressed_of_edge_eq_some (x := x) hk
    refine ⟨_, hserved, fun r => ?_, rfl, exec_frame hserved, fun hi => cycle_of_instrAt hi hserved⟩
    rw [State.advance_eq, State.getV_goto, State.toNat_getV_setV, keyToByte_toNat]
  · exact ⟨exec_haltUntilPressed_of_edge_eq_none hnone, fun hi => cycle_stalls hi hnone⟩

/-- Settles O44: the press fills the latch, and the next cycle empties it: a wait there writes the key, and a wait after
it finds nothing, though no cycle changes a key. -/
theorem keyPressIsLostAfterAnotherCycle : Obligations.KeyPressIsLostAfterAnotherCycle := by
  intro s p k x hr hfree hpress
  obtain rfl := Host.Outcome.next.inj ((runCommand_setKey_press hr hfree).symm.trans hpress)
  set p := (s.setHeld k true).setEdge (some k)
  have hedge : p.edge = some k := rfl
  have hheld : p.isHeld k = true := (s.isHeld_setHeld k k true).trans (if_pos rfl)
  refine ⟨fun hi => ?_, fun t ht => ?_⟩
  · refine ⟨_, cycle_of_instrAt hi (exec_haltUntilPressed_of_edge_eq_some hedge), ?_, rfl, rfl⟩
    rw [State.advance_eq, State.getV_setEdge, State.getV_goto, State.getV_setV_same, keyToByte_toNat]
  · have hempty : t.edge = none := (everyCycleThatSucceedsEmptiesTheKeyLatch p).1 t ht
    obtain ⟨hkeys, -⟩ := whatNoCycleDoes p t ht
    exact ⟨(hkeys k).trans hheld, fun hi => cycle_stalls hi hempty⟩

end Sys2Proof.Machine
end

section
/-! Proofs about the errors and the host's commands (60_exceptions.md). First when each operation that can fail raises
its error, so that the errors of an instruction are read off the operation it is made of; then what a cycle and a command
can raise. Last the timers, the keys and the screen as their commands leave them. -/

namespace Sys2Proof.Machine

/-! ## The errors of the operations

Each continues with something that raises no error, so its own check raises the only one. -/

section
variable {f : Fault}

theorem withRange_next_eq_fault_iff {base count : Nat} {t : State} : withRange base count (.next t) = .fault f ↔
    0 < count ∧ 4095 < base + count - 1 ∧ f = .addressOutOfBounds (max base 4096) := by
  obtain ⟨hgt, hpos, e⟩ | ⟨hfits, e⟩ := withRange_cases base count (.next t)
  · simp [e, hgt, hpos, eq_comm]
  · rw [e]
    exact iff_of_false nofun fun ⟨hpos, hgt, _⟩ => by omega

theorem pushThen_eq_fault_iff {s : State} {ret : Word} {k : State → Result} (hk : ∀ t, k t ≠ .fault f) :
    pushThen s ret k = .fault f ↔ s.sp = 16 ∧ f = .stackOverflow := by
  obtain ⟨hfull, e⟩ | ⟨hlt, e⟩ := pushThen_cases s ret k
  · simp [e, hfull, eq_comm]
  · rw [e]
    exact iff_of_false (hk _) fun ⟨hfull, _⟩ => by simp [hfull] at hlt

theorem popThen_eq_fault_iff {s : State} {k : Word → State → Result} (hk : ∀ w t, k w t ≠ .fault f) :
    popThen s k = .fault f ↔ s.sp = 0 ∧ f = .stackUnderflow := by
  obtain ⟨hempty, e⟩ | ⟨hpos, e⟩ := popThen_cases s k
  · simp [e, hempty, eq_comm]
  · rw [e]
    exact iff_of_false (hk _ _) fun ⟨hempty, _⟩ => by simp [hempty] at hpos

theorem withKey_eq_fault_iff {s : State} {x : Reg} {k : Key → Result} (hk : ∀ j, k j ≠ .fault f) :
    withKey s x k = .fault f ↔ 15 < (s.getV x).toNat ∧ f = .invalidKeyIndex (s.getV x) := by
  obtain ⟨hgt, e⟩ | ⟨hlt, e⟩ := withKey_cases s x k
  · simp [e, hgt, eq_comm]
  · rw [e]
    exact iff_of_false (hk _) fun ⟨hgt, _⟩ => by omega

end

/-! ## The errors of the instructions -/

section
variable {s : State} {f : Fault}

theorem exec_ret_eq_fault_iff : exec .ret s = .fault f ↔ s.sp = 0 ∧ f = .stackUnderflow := by
  rw [exec, execReturn]
  exact popThen_eq_fault_iff fun _ _ => nofun

theorem exec_call_eq_fault_iff {nnn : Addr12} : exec (.call nnn) s = .fault f ↔ s.sp = 16 ∧ f = .stackOverflow := by
  rw [exec, execCall]
  exact pushThen_eq_fault_iff fun _ => nofun

theorem exec_skipKeyPressed_eq_fault_iff {x : Reg} : exec (.skipKeyPressed x) s = .fault f ↔
    15 < (s.getV x).toNat ∧ f = .invalidKeyIndex (s.getV x) := by
  rw [exec, execSkipKeyPressed]
  exact withKey_eq_fault_iff fun _ => nofun

theorem exec_skipKeyNotPressed_eq_fault_iff {x : Reg} : exec (.skipKeyNotPressed x) s = .fault f ↔
    15 < (s.getV x).toNat ∧ f = .invalidKeyIndex (s.getV x) := by
  rw [exec, execSkipKeyNotPressed]
  exact withKey_eq_fault_iff fun _ => nofun

theorem exec_draw_eq_fault_iff {x y : Reg} {n : Fin 16} : exec (.draw x y n) s = .fault f ↔
    0 < n.val ∧ 4095 < s.i.toNat + n.val - 1 ∧ f = .addressOutOfBounds (max s.i.toNat 4096) :=
  withRange_next_eq_fault_iff

theorem exec_storeBcd_eq_fault_iff {x : Reg} : exec (.storeBcd x) s = .fault f ↔
    4095 < s.i.toNat + 2 ∧ f = .addressOutOfBounds (max s.i.toNat 4096) :=
  withRange_next_eq_fault_iff.trans (and_iff_right (Nat.succ_pos 2))

theorem exec_storeV_eq_fault_iff {x : Reg} : exec (.storeV x) s = .fault f ↔
    4095 < s.i.toNat + x.val ∧ f = .addressOutOfBounds (max s.i.toNat 4096) :=
  withRange_next_eq_fault_iff.trans (and_iff_right x.val.succ_pos)

theorem exec_loadV_eq_fault_iff {x : Reg} : exec (.loadV x) s = .fault f ↔
    4095 < s.i.toNat + x.val ∧ f = .addressOutOfBounds (max s.i.toNat 4096) :=
  withRange_next_eq_fault_iff.trans (and_iff_right x.val.succ_pos)

theorem exec_haltUntilPressed_ne_fault {x : Reg} : exec (.haltUntilPressed x) s ≠ .fault f := by
  cases he : s.edge with
  | some k => rw [exec_haltUntilPressed_of_edge_eq_some he]; nofun
  | none => rw [exec_haltUntilPressed_of_edge_eq_none he]; nofun

end

/-- Settles O14, instruction by instruction: an instruction made of no checked operation raises nothing. -/
theorem instructionErrorsExactly : Obligations.InstructionErrorsExactly := by
  intro i s f
  cases i with
  | ret => simp [exec_ret_eq_fault_iff]
  | call nnn => simp [exec_call_eq_fault_iff]
  | skipKeyPressed x => simp [exec_skipKeyPressed_eq_fault_iff]
  | skipKeyNotPressed x => simp [exec_skipKeyNotPressed_eq_fault_iff]
  | draw x y n => simp [exec_draw_eq_fault_iff]
  | storeBcd x => simp [exec_storeBcd_eq_fault_iff]
  | storeV x => simp [exec_storeV_eq_fault_iff]
  | loadV x => simp [exec_loadV_eq_fault_iff]
  | haltUntilPressed x => exact iff_of_false exec_haltUntilPressed_ne_fault (by simp)
  | _ => exact iff_of_false nofun (by simp)

/-! ## The errors of a cycle, a command and a step -/

section
variable {s : State} {f : Fault}

theorem commonTail_fault {r : Result} (h : commonTail r = .fault f) : r = .fault f := by
  cases r with
  | fault g => exact h
  | _ => cases h

/-- A cycle that fails: at the fetch, at the decoder, or at the instruction (92_eei_decisions.md D22). -/
theorem cycle_fault (h : cycle s = .fault f) :
    (fetch s = none ∧ f = .pcOutOfBounds s.pc) ∨
    (∃ w u, fetch s = some w ∧ decode w = .unknown u ∧ f = .unknownOpcode w) ∨
    ∃ w i, fetch s = some w ∧ decode w = .known i ∧ exec i s = .fault f := by
  cases hw : fetch s with
  | none =>
    rw [cycle_of_fetch_none hw] at h
    exact .inl ⟨rfl, (Host.Outcome.fault.inj h).symm⟩
  | some w =>
    cases hd : decode w with
    | unknown u =>
      rw [cycle_of_unknown hw hd] at h
      exact .inr (.inl ⟨w, u, rfl, hd, (Host.Outcome.fault.inj h).symm⟩)
    | known i =>
      rw [cycle_of_known hw hd] at h
      exact .inr (.inr ⟨w, i, rfl, hd, commonTail_fault h⟩)

/-- A command that fails is a `load` of a ROM too large (70_reset_and_hazards.md R282), or a cycle that fails. -/
theorem runCommand_fault {c : Command} (h : runCommand c s = .fault f) :
    (∃ rom, c = .load rom ∧ 3584 < rom.length ∧ f = .romTooLarge rom.length) ∨ (c = .cycle ∧ cycle s = .fault f) := by
  unfold runCommand at h
  split at h
  · cases c with
    | load rom =>
      by_cases hfits : rom.length ≤ 3584
      · simp [commandLoad, romFits, hfits] at h
      · refine .inl ⟨rom, rfl, by omega, ?_⟩
        simpa [commandLoad, romFits, hfits, raise] using h.symm
    | cycle => exact .inr ⟨rfl, h⟩
    | _ => cases h
  · cases h

end

theorem exec_ne_invalidRegisterIndex (i : Instr) (s : State) : exec i s ≠ .fault .invalidRegisterIndex := by
  rw [ne_eq, instructionErrorsExactly i s]
  simp

theorem runCommand_ne_invalidRegisterIndex (c : Command) (s : State) :
    runCommand c s ≠ .fault .invalidRegisterIndex := by
  intro h
  obtain ⟨rom, -, -, hf⟩ | ⟨-, hc⟩ := runCommand_fault h
  · cases hf
  · obtain ⟨-, hf⟩ | ⟨w, u, -, -, hf⟩ | ⟨w, i, -, -, hi⟩ := cycle_fault hc
    · cases hf
    · cases hf
    · exact exec_ne_invalidRegisterIndex i s hi

/-- Settles O16: a step is one command, and none raises the error. -/
theorem invalidRegisterIndexIsNeverRaised : Obligations.InvalidRegisterIndexIsNeverRaised := by
  intro s
  unfold step
  split
  · exact runCommand_ne_invalidRegisterIndex _ _
  · exact runCommand_ne_invalidRegisterIndex _ _

/-! ## The timers and the keys -/

theorem tick_toNat (b : Byte) : (tick b).toNat = b.toNat - 1 := by
  unfold tick
  split <;> bv_omega

/-- Settles O45: one law for the two timers. -/
theorem tickTimersCountsDownToZero : Obligations.TickTimersCountsDownToZero := by
  intro s hr
  refine ⟨(s.setDt (tick s.dt)).setSt (tick s.st), ?_, tick_toNat s.dt, tick_toNat s.st, ?_⟩
  · simp [runCommand, hr, commandTickTimers]
  · exact unchangedBut_of_eq_patched (by simp) rfl

/-- `set_key` as one state: the key, and the latch by the condition of 60_exceptions.md R258. -/
theorem runCommand_setKey {s : State} (hr : s.afterReset = true) (k : Key) (pressed : Bool) :
    runCommand (.setKey k pressed) s = .next ((s.setHeld k pressed).setEdge
      (if pressed = true ∧ (s.isHeld k = false ∨ s.params.keyEdgeOnRepeat = true) then some k else s.edge)) := by
  simp only [runCommand, hr, Bool.true_or, if_true, commandSetKey, Bool.and_eq_true, Bool.or_eq_true,
    Bool.not_eq_true']
  split <;> rfl

/-- Settles O46, by the state the command leaves. -/
theorem setKeyLatchesAnEdge : Obligations.SetKeyLatchesAnEdge := by
  intro s k pressed hr
  refine ⟨_, runCommand_setKey hr k pressed, fun q => s.isHeld_setHeld k q pressed, rfl, ?_⟩
  exact unchangedBut_of_eq_patched (by simp) rfl

/-! ## The screen as the host reads it -/

/-- Rows of one width, one after the other: before row `row` stand `row * w` cells. -/
theorem rowMajor_getElem? {w : Nat} {fb : Framebuffer} (hrows : ∀ cells ∈ fb, cells.length = w) {row col : Nat}
    (hrow : row < fb.length) (hcol : col < w) : (rowMajor fb)[row * w + col]? = some (cellAt fb row col) := by
  induction fb generalizing row with
  | nil => simp at hrow
  | cons cells rest ih =>
    obtain ⟨hlen, hrest⟩ := List.forall_mem_cons.mp hrows
    cases row with
    | zero =>
      have hin : col < cells.length := by omega
      simp [rowMajor, cellAt, List.getElem?_append_left, hin]
    | succ row =>
      have hskip : (row + 1) * w + col = cells.length + (row * w + col) := by rw [hlen]; ring
      rw [rowMajor, List.flatten_cons, hskip, List.getElem?_append_right (Nat.le_add_right _ _),
        Nat.add_sub_cancel_left]
      exact ih hrest (Nat.lt_of_succ_lt_succ hrow)

theorem rowMajor_length {w : Nat} {fb : Framebuffer} (hrows : ∀ cells ∈ fb, cells.length = w) :
    (rowMajor fb).length = w * fb.length := by
  rw [rowMajor, List.length_flatten, List.map_congr_left hrows]
  simp [Nat.mul_comm]

/-- Settles O49: the view is the rows of the screen one after the other, each W cells long. -/
theorem framebufferShowsTheCellsRowMajor : Obligations.FramebufferShowsTheCellsRowMajor := by
  intro s hr hok
  obtain ⟨-, hshape⟩ := hok
  simp only [screenShaped, Bool.and_eq_true, beq_iff_eq, List.all_eq_true] at hshape
  obtain ⟨hheight, hrows⟩ := hshape
  have hrun : runCommand .framebuffer s = .next s := by simp [runCommand, hr, commandFramebuffer]
  refine ⟨issue_of_next hrun, ?_, fun row col hrow hcol => ?_⟩
  · rw [State.view, rowMajor_length hrows, hheight]
  · exact rowMajor_getElem? hrows (by omega) hcol

end Sys2Proof.Machine
end

section
/-! Proofs about the reset and the ends of runs (70_reset_and_hazards.md). First what each obligation is read off from: the
two outcomes of `load`, the values after reset, when a run is finished. -/

namespace Sys2Proof.Machine

/-! ## Loading a ROM (70_reset_and_hazards.md R282) -/

section
variable {s : State} {rom : List Byte}

theorem runCommand_load_of_le (hr : s.afterReset = true) (h : rom.length ≤ 3584) :
    runCommand (.load rom) s = .next (s.storeBytes 0x200 rom) := by
  simp [runCommand, hr, commandLoad, romFits, h]

theorem runCommand_load_of_gt (hr : s.afterReset = true) (h : 3584 < rom.length) :
    runCommand (.load rom) s = .fault (.romTooLarge rom.length) := by
  simp [runCommand, hr, commandLoad, romFits, raise, Nat.not_le.mpr h]

end

/-- Settles O47: the ROM is one block stored at 0x200, so an address holds one of its bytes or keeps its own. -/
theorem loadCopiesOrRejects : Obligations.LoadCopiesOrRejects := by
  refine fun s rom hr => ⟨fun hgt => issue_of_fault (runCommand_load_of_gt hr hgt), fun hle => ?_⟩
  refine ⟨_, issue_of_next (runCommand_load_of_le hr hle), fun k hk => ?_,
    fun a => s.byteAt_storeBytes_of_outside 0x200, unchangedBut_of_eq_patched (by simp) rfl⟩
  rw [s.byteAt_storeBytes_add 0x200 hk, List.getD_eq_getElem rom 0 hk]

/-! ## The reset values (10_state.md R41) -/

section
variable (p : Params)

/-- Glyph `d` lies at the five addresses from 5 * d (20_memory.md R66). -/
theorem resetByte_glyph (d : Fin 16) (b : Fin 5) : resetByte p (5 * d.val + b.val) = (p.font.get d).get b := by
  have hin : 5 * d.val + b.val < 80 := by omega
  have hdiv : (5 * d.val + b.val) / 5 = d.val := by omega
  have hmod : (5 * d.val + b.val) % 5 = b.val := by omega
  simp only [resetByte, dif_pos hin, hdiv, hmod, Vector.get_eq_getElem]

theorem resetByte_of_ge {a : Nat} (h : 0x050 ≤ a) : resetByte p a = 0 :=
  dif_neg (Nat.not_lt.mpr h)

theorem State.getV_resetWith (r : Reg) : (State.resetWith p).getV r = 0 := Vector.getElem_replicate _

theorem State.entry_resetWith (k : Fin 16) : (State.resetWith p).entry k = 0 := Vector.getElem_replicate _

theorem State.isHeld_resetWith (k : Key) : (State.resetWith p).isHeld k = false := Vector.getElem_replicate _

end

/-- Settles O48: `reset` installs `State.resetWith` of the state's own parameters. -/
theorem resetInstallsTheResetValues : Obligations.ResetInstallsTheResetValues := by
  refine ⟨fun s => ?_, runCommand_reset State.reset⟩
  exact ⟨_, runCommand_reset s, rfl, rfl, rfl, rfl, State.getV_resetWith s.params, rfl, rfl, rfl,
    State.entry_resetWith s.params, rfl, rfl, State.isHeld_resetWith s.params, rfl, cellAt_blankScreen _ _,
    screenShaped_blankScreen _ _, resetByte_glyph s.params, fun _ => resetByte_of_ge s.params⟩

/-! ## The end of a run (70_reset_and_hazards.md R294) -/

theorem isFinished_iff {s : State} :
    isFinished s = true ↔ ∃ nnn, s.instrAt = some (.jump nnn) ∧ zext16 nnn = s.pc := by
  unfold isFinished
  split
  next nnn hi => simp [hi]
  next hother => exact iff_of_false nofun fun ⟨nnn, hi, _⟩ => hother nnn hi

/-- The latch plays no part in the fetch. -/
theorem isFinished_setEdge (s : State) (e : Option Key) : isFinished (s.setEdge e) = isFinished s := rfl

theorem exec_jump_of_target_eq_pc {s : State} {nnn : Addr12} (h : zext16 nnn = s.pc) :
    exec (.jump nnn) s = .next s := by
  rw [exec, execJump, h]
  rfl

/-- Settles O53: a `Jump` to its own address changes nothing, so its cycle is the common tail alone. -/
theorem selfJumpIsTheEndOfARun : Obligations.SelfJumpIsTheEndOfARun := by
  intro s h
  obtain ⟨nnn, hi, htarget⟩ := isFinished_iff.mp h
  exact ⟨cycle_of_instrAt hi (exec_jump_of_target_eq_pc htarget), (isFinished_setEdge s none).trans h⟩

end Sys2Proof.Machine
end
